-- ==== Sys2Proof/Word.lean ====
section
/-! DEFINITION. The words of the SPI transfer engine: `XLEN = 32` (00_scope.md R11) is the width of
addresses, operands, counters and the data register. -/

namespace Sys2Proof

/-- A 32-bit word: an operand, an address, a counter, a data register value (R11, R28, R66). -/
abbrev Word := BitVec 32

/-- A byte of host memory (R60). -/
abbrev Byte := BitVec 8

/-- An instance index: the 8-bit `INST` field of a frame (R91). -/
abbrev Idx := BitVec 8

end Sys2Proof
end

