-- ==== Sys2Proof/Syntax.lean ====
section
/-! DEFINITION. Frames and instructions. An operation or a stimulus is a frame of four 32-bit words
(30_encoding.md R90); `Instr` has one constructor per row of opcode_table.json. -/

namespace Sys2Proof

/-- A frame `(CMD, A0, A1, A2)` (R90). -/
structure Frame where
  cmd : Word
  a0 : Word
  a1 : Word
  a2 : Word
  deriving DecidableEq, Repr

/-- "There is one command port for all instances (single caller context) and one stimulus port"
(R90). -/
inductive Port where
  | command | stimulus
  deriving DecidableEq, Repr

/-- The operations and stimuli: one constructor per row of opcode_table.json, with the fields the row
names. `i` is always `INST`. -/
inductive Instr where
  /-- INITIALIZE (R121): `cb` is CALLBACK. -/
  | initializeOp (i : Idx) (cb : Word)
  /-- UNINITIALIZE (R123). -/
  | uninitializeOp (i : Idx)
  /-- POWER_OFF (R125). -/
  | powerOff (i : Idx)
  /-- POWER_LOW (R126). -/
  | powerLow (i : Idx)
  /-- POWER_FULL (R127). -/
  | powerFull (i : Idx)
  /-- CTL_MODE_INACTIVE (R145). -/
  | ctlModeInactive (i : Idx)
  /-- CTL_MODE_MASTER (R146): FF, BITS, ORDER, SSM of the control word, SPEED. -/
  | ctlModeMaster (i : Idx) (ff : BitVec 4) (bits : BitVec 6) (order : BitVec 1) (ssm : BitVec 2) (speed : Word)
  /-- CTL_MODE_SLAVE (R147): FF, BITS, ORDER, SSS of the control word. -/
  | ctlModeSlave (i : Idx) (ff : BitVec 4) (bits : BitVec 6) (order : BitVec 1) (sss : BitVec 1)
  /-- CTL_SET_BUS_SPEED (R158). -/
  | ctlSetBusSpeed (i : Idx) (speed : Word)
  /-- CTL_GET_BUS_SPEED (R159). -/
  | ctlGetBusSpeed (i : Idx)
  /-- CTL_SET_DEFAULT_TX_VALUE (R160). -/
  | ctlSetDefaultTxValue (i : Idx) (value : Word)
  /-- CTL_CONTROL_SS (R162): 0 inactive, not 0 active. -/
  | ctlControlSs (i : Idx) (active : Word)
  /-- CTL_ABORT_TRANSFER (R141). -/
  | ctlAbortTransfer (i : Idx)
  /-- SEND (R172). -/
  | send (i : Idx) (buffer count : Word)
  /-- RECEIVE (R173). -/
  | receive (i : Idx) (buffer count : Word)
  /-- TRANSFER (R174). -/
  | transfer (i : Idx) (tx rx count : Word)
  /-- GETDATACOUNT (R190). -/
  | getDataCount (i : Idx)
  /-- GETSTATUS (R191). -/
  | getStatus (i : Idx)
  /-- IRQ (R217). -/
  | irq (i : Idx)
  /-- DMA_TX_DONE (R231). -/
  | dmaTxDone (i : Idx)
  /-- DMA_TX_ERROR (R235): `kind` is the event kind, 1 for ERROR, "any other `A0` is treated as
  ERROR" (R94). -/
  | dmaTxError (i : Idx) (kind : Word)
  /-- DMA_RX_DONE (R233). -/
  | dmaRxDone (i : Idx)
  /-- DMA_RX_ERROR (R235), `kind` as in `dmaTxError`. -/
  | dmaRxError (i : Idx) (kind : Word)
  deriving DecidableEq, Repr

end Sys2Proof
end

