-- ==== Sys2Proof/WellFormed.lean ====
section
/-! DEFINITION. When an instruction term is one that a frame can carry, and when it names an instance
that exists. -/

namespace Sys2Proof

/-- The instance an instruction names (R91). -/
def Instr.idx : Instr → Idx
  | .initializeOp i _ => i
  | .uninitializeOp i => i
  | .powerOff i => i
  | .powerLow i => i
  | .powerFull i => i
  | .ctlModeInactive i => i
  | .ctlModeMaster i _ _ _ _ _ => i
  | .ctlModeSlave i _ _ _ _ => i
  | .ctlSetBusSpeed i _ => i
  | .ctlGetBusSpeed i => i
  | .ctlSetDefaultTxValue i _ => i
  | .ctlControlSs i _ => i
  | .ctlAbortTransfer i => i
  | .send i _ _ => i
  | .receive i _ _ => i
  | .transfer i _ _ _ => i
  | .getDataCount i => i
  | .getStatus i => i
  | .irq i => i
  | .dmaTxDone i => i
  | .dmaTxError i _ => i
  | .dmaRxDone i => i
  | .dmaRxError i _ => i

/-- The port an instruction's frame is presented on (R92). -/
def Instr.port : Instr → Port
  | .initializeOp _ _ => .command
  | .uninitializeOp _ => .command
  | .powerOff _ => .command
  | .powerLow _ => .command
  | .powerFull _ => .command
  | .ctlModeInactive _ => .command
  | .ctlModeMaster _ _ _ _ _ _ => .command
  | .ctlModeSlave _ _ _ _ _ => .command
  | .ctlSetBusSpeed _ _ => .command
  | .ctlGetBusSpeed _ => .command
  | .ctlSetDefaultTxValue _ _ => .command
  | .ctlControlSs _ _ => .command
  | .ctlAbortTransfer _ => .command
  | .send _ _ _ => .command
  | .receive _ _ _ => .command
  | .transfer _ _ _ _ => .command
  | .getDataCount _ => .command
  | .getStatus _ => .command
  | .irq _ => .stimulus
  | .dmaTxDone _ => .stimulus
  | .dmaTxError _ _ => .stimulus
  | .dmaRxDone _ => .stimulus
  | .dmaRxError _ _ => .stimulus

/-- An error event's kind is not 0, since `A0 = 0` is DONE (R94). Every other field is as wide as its
place in the frame, so there is nothing else to check of the term by itself. -/
def Instr.kindOk : Instr → Bool
  | .dmaTxError _ k => k != 0
  | .dmaRxError _ k => k != 0
  | .initializeOp _ _ => true
  | .uninitializeOp _ => true
  | .powerOff _ => true
  | .powerLow _ => true
  | .powerFull _ => true
  | .ctlModeInactive _ => true
  | .ctlModeMaster _ _ _ _ _ _ => true
  | .ctlModeSlave _ _ _ _ _ => true
  | .ctlSetBusSpeed _ _ => true
  | .ctlGetBusSpeed _ => true
  | .ctlSetDefaultTxValue _ _ => true
  | .ctlControlSs _ _ => true
  | .ctlAbortTransfer _ => true
  | .send _ _ _ => true
  | .receive _ _ _ => true
  | .transfer _ _ _ _ => true
  | .getDataCount _ => true
  | .getStatus _ => true
  | .irq _ => true
  | .dmaTxDone _ => true
  | .dmaRxDone _ => true

/-- `INST` "must be a member of `Inst`" (R91). -/
def Instr.namesMember (insts : List Idx) (x : Instr) : Bool := insts.contains x.idx

/-- Well-formed for the instance set `insts`: both checks. -/
def Instr.wf (insts : List Idx) (x : Instr) : Bool := x.kindOk && x.namesMember insts

end Sys2Proof
end

