-- ==== Sys2Proof/Decode.lean ====
section
/-! DEFINITION. From frames to instructions and back: the decoder (30_encoding.md R90 to R103, R109,
R110), the encoder, and the opcode table's rows over the decode word `W = {A0, CMD}` (R95). -/

namespace Sys2Proof

/-! ### Fields of the CMD word (R91) -/

/-- `OP = CMD[7:0]`. -/
def Frame.op (f : Frame) : BitVec 8 := f.cmd.extractLsb' 0 8

/-- `INST = CMD[15:8]`. -/
def Frame.inst (f : Frame) : Idx := f.cmd.extractLsb' 8 8

/-- `ZERO = CMD[31:16]`. -/
def Frame.zero (f : Frame) : BitVec 16 := f.cmd.extractLsb' 16 16

/-! ### Fields of the control word in A0 (R97) -/

/-- `CODE = A0[7:0]`. -/
def Frame.code (f : Frame) : BitVec 8 := f.a0.extractLsb' 0 8

/-- `FF = A0[11:8]`. -/
def Frame.ff (f : Frame) : BitVec 4 := f.a0.extractLsb' 8 4

/-- `BITS = A0[17:12]`. -/
def Frame.bits (f : Frame) : BitVec 6 := f.a0.extractLsb' 12 6

/-- `ORDER = A0[18]`. -/
def Frame.order (f : Frame) : BitVec 1 := f.a0.extractLsb' 18 1

/-- `SSM = A0[20:19]`. -/
def Frame.ssm (f : Frame) : BitVec 2 := f.a0.extractLsb' 19 2

/-- `SSS = A0[21]`. -/
def Frame.sss (f : Frame) : BitVec 1 := f.a0.extractLsb' 21 1

/-! ### The decoder -/

/-- Why a frame is no instruction of the table. The first two make a frame malformed (R109), the last
two are well-formed frames that no row lists (R128, R164). -/
inductive Reject where
  /-- `CMD[31:16]` is not 0 (R109). -/
  | zeroField
  /-- `OP` is not one of the port's codes (R109; for the stimulus port R92). -/
  | reservedOp (op : BitVec 8)
  /-- A POWERCONTROL frame whose state number is not 0, 1 or 2 (R128). -/
  | powerState (i : Idx) (state : Word)
  /-- A CONTROL frame whose code is not in the table of R98 (R164). -/
  | controlCode (i : Idx) (code : BitVec 8)
  deriving DecidableEq, Repr

/-- POWERCONTROL: all 32 bits of `A0` select the row (R95, R96). -/
def decodePower (f : Frame) : Except Reject Instr :=
  if f.a0 = 0 then .ok (.powerOff f.inst)
  else if f.a0 = 1 then .ok (.powerLow f.inst)
  else if f.a0 = 2 then .ok (.powerFull f.inst)
  else .error (.powerState f.inst f.a0)

/-- CONTROL: the control code selects the row (R95, R98); the mode selects read their fields of the
control word, every other code ignores them (R97). -/
def decodeControl (f : Frame) : Except Reject Instr :=
  if f.code = 0x00 then .ok (.ctlModeInactive f.inst)
  else if f.code = 0x01 then .ok (.ctlModeMaster f.inst f.ff f.bits f.order f.ssm f.a1)
  else if f.code = 0x02 then .ok (.ctlModeSlave f.inst f.ff f.bits f.order f.sss)
  else if f.code = 0x10 then .ok (.ctlSetBusSpeed f.inst f.a1)
  else if f.code = 0x11 then .ok (.ctlGetBusSpeed f.inst)
  else if f.code = 0x12 then .ok (.ctlSetDefaultTxValue f.inst f.a1)
  else if f.code = 0x13 then .ok (.ctlControlSs f.inst f.a1)
  else if f.code = 0x14 then .ok (.ctlAbortTransfer f.inst)
  else .error (.controlCode f.inst f.code)

/-- The operation of a frame on the command port: `OP` 0x01 to 0x09 (R92). -/
def decodeOperation (f : Frame) : Except Reject Instr :=
  if f.op = 0x01 then .ok (.initializeOp f.inst f.a0)
  else if f.op = 0x02 then .ok (.uninitializeOp f.inst)
  else if f.op = 0x03 then decodePower f
  else if f.op = 0x04 then decodeControl f
  else if f.op = 0x05 then .ok (.send f.inst f.a0 f.a1)
  else if f.op = 0x06 then .ok (.receive f.inst f.a0 f.a1)
  else if f.op = 0x07 then .ok (.transfer f.inst f.a0 f.a1 f.a2)
  else if f.op = 0x08 then .ok (.getDataCount f.inst)
  else if f.op = 0x09 then .ok (.getStatus f.inst)
  else .error (.reservedOp f.op)

/-- The stimulus of a frame on the stimulus port: `OP` 0x10 to 0x12; `A0 = 0` is DONE, anything else is
ERROR (R92, R94). -/
def decodeEvent (f : Frame) : Except Reject Instr :=
  if f.op = 0x10 then .ok (.irq f.inst)
  else if f.op = 0x11 then
    if f.a0 = 0 then .ok (.dmaTxDone f.inst) else .ok (.dmaTxError f.inst f.a0)
  else if f.op = 0x12 then
    if f.a0 = 0 then .ok (.dmaRxDone f.inst) else .ok (.dmaRxError f.inst f.a0)
  else .error (.reservedOp f.op)

/-- A frame on the command port; the ZERO field must be 0 (R109). -/
def decodeCommand (f : Frame) : Except Reject Instr :=
  if f.zero = 0 then decodeOperation f else .error .zeroField

/-- A frame on the stimulus port; the ZERO field must be 0 (R91). -/
def decodeStimulus (f : Frame) : Except Reject Instr :=
  if f.zero = 0 then decodeEvent f else .error .zeroField

/-- The decoder of a port (R90, R92). -/
def decode : Port → Frame → Except Reject Instr
  | .command, f => decodeCommand f
  | .stimulus, f => decodeStimulus f

/-! ### The encoder -/

/-- `CMD = {0, INST, OP}` (R91). -/
def cmdWord (op : BitVec 8) (i : Idx) : Word := 0#16 ++ i ++ op

/-- The control word (R97), bits [31:22] zero. -/
def controlWord (code : BitVec 8) (ff : BitVec 4) (bits : BitVec 6) (order : BitVec 1) (ssm : BitVec 2)
    (sss : BitVec 1) : Word := 0#10 ++ sss ++ ssm ++ order ++ bits ++ ff ++ code

/-- A CONTROL frame whose control word has only a code. -/
def controlFrame (i : Idx) (code : BitVec 8) (arg : Word) : Frame :=
  ⟨cmdWord 0x04 i, controlWord code 0 0 0 0 0, arg, 0⟩

/-- The frame of an instruction, unused operand words zero (R90 to R98). -/
def encode : Instr → Frame
  | .initializeOp i cb => ⟨cmdWord 0x01 i, cb, 0, 0⟩
  | .uninitializeOp i => ⟨cmdWord 0x02 i, 0, 0, 0⟩
  | .powerOff i => ⟨cmdWord 0x03 i, 0, 0, 0⟩
  | .powerLow i => ⟨cmdWord 0x03 i, 1, 0, 0⟩
  | .powerFull i => ⟨cmdWord 0x03 i, 2, 0, 0⟩
  | .ctlModeInactive i => controlFrame i 0x00 0
  | .ctlModeMaster i ff bits order ssm speed =>
    ⟨cmdWord 0x04 i, controlWord 0x01 ff bits order ssm 0, speed, 0⟩
  | .ctlModeSlave i ff bits order sss => ⟨cmdWord 0x04 i, controlWord 0x02 ff bits order 0 sss, 0, 0⟩
  | .ctlSetBusSpeed i speed => controlFrame i 0x10 speed
  | .ctlGetBusSpeed i => controlFrame i 0x11 0
  | .ctlSetDefaultTxValue i value => controlFrame i 0x12 value
  | .ctlControlSs i active => controlFrame i 0x13 active
  | .ctlAbortTransfer i => controlFrame i 0x14 0
  | .send i buffer count => ⟨cmdWord 0x05 i, buffer, count, 0⟩
  | .receive i buffer count => ⟨cmdWord 0x06 i, buffer, count, 0⟩
  | .transfer i tx rx count => ⟨cmdWord 0x07 i, tx, rx, count⟩
  | .getDataCount i => ⟨cmdWord 0x08 i, 0, 0, 0⟩
  | .getStatus i => ⟨cmdWord 0x09 i, 0, 0, 0⟩
  | .irq i => ⟨cmdWord 0x10 i, 0, 0, 0⟩
  | .dmaTxDone i => ⟨cmdWord 0x11 i, 0, 0, 0⟩
  | .dmaTxError i kind => ⟨cmdWord 0x11 i, kind, 0, 0⟩
  | .dmaRxDone i => ⟨cmdWord 0x12 i, 0, 0, 0⟩
  | .dmaRxError i kind => ⟨cmdWord 0x12 i, kind, 0, 0⟩

/-! ### The opcode table over the decode word (R95) -/

/-- `W = {A0, CMD}` (R95). -/
def Frame.decodeWord (f : Frame) : BitVec 64 := f.a0 ++ f.cmd

/-- One row of opcode_table.json: "A row matches when `W AND mask = match`" (R95). -/
structure TableRow where
  mnemonic : String
  port : Port
  pattern : BitVec 64
  mask : BitVec 64
  deriving DecidableEq, Repr

/-- The row's pattern matches the decode word (R95). -/
def TableRow.accepts (r : TableRow) (w : BitVec 64) : Bool := w &&& r.mask == r.pattern

/-- Rows for lifecycle operations. -/
def lifecycleRows : List TableRow :=
  [⟨"INITIALIZE", .command, 0x0000000000000001, 0x00000000FFFF00FF⟩,
   ⟨"UNINITIALIZE", .command, 0x0000000000000002, 0x00000000FFFF00FF⟩,
   ⟨"POWER_OFF", .command, 0x0000000000000003, 0xFFFFFFFFFFFF00FF⟩,
   ⟨"POWER_LOW", .command, 0x0000000100000003, 0xFFFFFFFFFFFF00FF⟩,
   ⟨"POWER_FULL", .command, 0x0000000200000003, 0xFFFFFFFFFFFF00FF⟩]

/-- Rows for CONTROL. -/
def controlRows : List TableRow :=
  [⟨"CTL_MODE_INACTIVE", .command, 0x0000000000000004, 0x000000FFFFFF00FF⟩,
   ⟨"CTL_MODE_MASTER", .command, 0x0000000100000004, 0x000000FFFFFF00FF⟩,
   ⟨"CTL_MODE_SLAVE", .command, 0x0000000200000004, 0x000000FFFFFF00FF⟩,
   ⟨"CTL_SET_BUS_SPEED", .command, 0x0000001000000004, 0x000000FFFFFF00FF⟩,
   ⟨"CTL_GET_BUS_SPEED", .command, 0x0000001100000004, 0x000000FFFFFF00FF⟩,
   ⟨"CTL_SET_DEFAULT_TX_VALUE", .command, 0x0000001200000004, 0x000000FFFFFF00FF⟩,
   ⟨"CTL_CONTROL_SS", .command, 0x0000001300000004, 0x000000FFFFFF00FF⟩,
   ⟨"CTL_ABORT_TRANSFER", .command, 0x0000001400000004, 0x000000FFFFFF00FF⟩]

/-- Rows for the transfer calls and the queries. -/
def transferRows : List TableRow :=
  [⟨"SEND", .command, 0x0000000000000005, 0x00000000FFFF00FF⟩,
   ⟨"RECEIVE", .command, 0x0000000000000006, 0x00000000FFFF00FF⟩,
   ⟨"TRANSFER", .command, 0x0000000000000007, 0x00000000FFFF00FF⟩,
   ⟨"GETDATACOUNT", .command, 0x0000000000000008, 0x00000000FFFF00FF⟩,
   ⟨"GETSTATUS", .command, 0x0000000000000009, 0x00000000FFFF00FF⟩]

/-- Rows for the stimuli. -/
def stimulusRows : List TableRow :=
  [⟨"IRQ", .stimulus, 0x0000000000000010, 0x00000000FFFF00FF⟩,
   ⟨"DMA_TX_DONE", .stimulus, 0x0000000000000011, 0xFFFFFFFFFFFF00FF⟩,
   ⟨"DMA_TX_ERROR", .stimulus, 0x0000000100000011, 0xFFFFFFFFFFFF00FF⟩,
   ⟨"DMA_RX_DONE", .stimulus, 0x0000000000000012, 0xFFFFFFFFFFFF00FF⟩,
   ⟨"DMA_RX_ERROR", .stimulus, 0x0000000100000012, 0xFFFFFFFFFFFF00FF⟩]

/-- The 23 rows of opcode_table.json. -/
def opcodeTable : List TableRow := lifecycleRows ++ controlRows ++ transferRows ++ stimulusRows

/-- The mnemonic of the row an instruction belongs to. -/
def Instr.mnemonic : Instr → String
  | .initializeOp _ _ => "INITIALIZE"
  | .uninitializeOp _ => "UNINITIALIZE"
  | .powerOff _ => "POWER_OFF"
  | .powerLow _ => "POWER_LOW"
  | .powerFull _ => "POWER_FULL"
  | .ctlModeInactive _ => "CTL_MODE_INACTIVE"
  | .ctlModeMaster _ _ _ _ _ _ => "CTL_MODE_MASTER"
  | .ctlModeSlave _ _ _ _ _ => "CTL_MODE_SLAVE"
  | .ctlSetBusSpeed _ _ => "CTL_SET_BUS_SPEED"
  | .ctlGetBusSpeed _ => "CTL_GET_BUS_SPEED"
  | .ctlSetDefaultTxValue _ _ => "CTL_SET_DEFAULT_TX_VALUE"
  | .ctlControlSs _ _ => "CTL_CONTROL_SS"
  | .ctlAbortTransfer _ => "CTL_ABORT_TRANSFER"
  | .send _ _ _ => "SEND"
  | .receive _ _ _ => "RECEIVE"
  | .transfer _ _ _ _ => "TRANSFER"
  | .getDataCount _ => "GETDATACOUNT"
  | .getStatus _ => "GETSTATUS"
  | .irq _ => "IRQ"
  | .dmaTxDone _ => "DMA_TX_DONE"
  | .dmaTxError _ _ => "DMA_TX_ERROR"
  | .dmaRxDone _ => "DMA_RX_DONE"
  | .dmaRxError _ _ => "DMA_RX_ERROR"

/-! ### Words as the host numbers them -/

/-- The frame whose words are the number `w`: `CMD` its lowest 32 bits, then `A0`, `A1`, `A2`
(R95). -/
def Frame.ofNat (w : Nat) : Frame :=
  ⟨BitVec.ofNat 32 w, BitVec.ofNat 32 (w >>> 32), BitVec.ofNat 32 (w >>> 64), BitVec.ofNat 32 (w >>> 96)⟩

/-- The port of a word taken by itself: the stimulus codes 0x10 to 0x12 belong to the stimulus port,
every other word is put on the command port (R92, log 6). -/
def Frame.port (f : Frame) : Port :=
  if f.op = 0x10 ∨ f.op = 0x11 ∨ f.op = 0x12 then .stimulus else .command

/-- The frame of an `nbits`-bit table word `w`, every bit above `nbits` zero. -/
def tableFrame (nbits w : Nat) : Frame := Frame.ofNat (w % 2 ^ nbits)

/-- What the decoder reads from an instruction whose bits are `w`; `none` where it refuses. -/
def decodeTableWord (nbits w : Nat) : Option Instr :=
  match decode (tableFrame nbits w).port (tableFrame nbits w) with
  | .ok x => some x
  | .error _ => none

end Sys2Proof
end

