-- ==== Sys2Proof/Config.lean ====
section
/-! DEFINITION. What an implementation fixes: the Instance Descriptor (00_scope.md R9), the global
parameters (R11), and the one parameter that is a function. The data-valued parameters are launch
parameters: `State` carries them as plain data that no step writes, so that a statement about every
state is about every platform (log 3). -/

namespace Sys2Proof

/-- `tag[i]`: "a mode tag {MASTER, SLAVE, ULP_MASTER}" (R9). -/
inductive Tag where
  | master | slave | ulpMaster
  deriving DecidableEq, Repr

/-- `bank[i]`: the register bank of the serial unit (R9, R144). -/
inductive Bank where
  | masterOnly | slaveOnly
  deriving DecidableEq, Repr

/-- One pin assignment: "each with port/pin/mux/pad-select" (R9). Its content is opaque. -/
structure Pin where
  port : Nat
  pin : Nat
  mux : Nat
  pad : Nat
  deriving DecidableEq, Repr

/-- The Instance Descriptor: "identifies one SPI hardware unit", "Immutable after board
configuration" (R9). `none` is an ABSENT pin. -/
structure Desc where
  tag : Tag
  sck : Option Pin
  cs : Vector (Option Pin) 4
  mosi : Option Pin
  miso : Option Pin
  clkSrc : Nat
  bank : Bank
  wide : Bool
  dmaTxBound : Bool
  dmaRxBound : Bool
  deriving DecidableEq, Repr

/-- `P_TX_MASK` in {LITERAL, ALWAYS} (R11, R211). -/
inductive PTxMask where
  | literal | always
  deriving DecidableEq, Repr

/-- The parameters that are not per instance and are data (R11). `dmaAlignRequired` is read by no
rule of the engine: "the engine never checks" (D10, log 20). -/
structure Params where
  dmaArb : Nat
  dummyByte : Byte
  scratchAddr : Word
  pTxMask : PTxMask
  dmaAlignRequired : Bool
  deriving DecidableEq, Repr

namespace Config

/-- `DMA_MAX_BEATS`: "capped at 1023 per hardware limit" (R11, R180; unaudited literal, log 21). -/
def dmaMaxBeats : Nat := 1023

/-- `BAUD_ACTUAL`: OPEN (R11), "depending on `baud_req[i]` alone" (R159). A free value (log 4). -/
opaque baudActual : Word → Word

/-- A pin that is present; nothing reads its content (R10). -/
def somePin : Option Pin := some { port := 0, pin := 0, mux := 0, pad := 0 }

/-- The reference descriptor of a given tag (95_test_vectors.md section 0; log 3): one chip-select on
the masters, none on the slave, the bank that follows the tag (D27). -/
def refDesc (t : Tag) (wide dma : Bool) : Desc where
  tag := t
  sck := somePin
  cs := match t with
    | .slave => #v[none, none, none, none]
    | .master => #v[somePin, none, none, none]
    | .ulpMaster => #v[somePin, none, none, none]
  mosi := somePin
  miso := somePin
  clkSrc := 0
  bank := match t with
    | .slave => .slaveOnly
    | .master => .masterOnly
    | .ulpMaster => .masterOnly
  wide := wide
  dmaTxBound := dma
  dmaRxBound := dma

/-- The reference parameters (95_test_vectors.md section 0; log 3). -/
def refParams : Params where
  dmaArb := 0
  dummyByte := 0xFF
  scratchAddr := 0x1000
  pTxMask := .literal
  dmaAlignRequired := false

end Config

end Sys2Proof
end

