-- ==== Sys2Proof/Machine/State.lean ====
section
/-! DEFINITION. The state of the machine (10_state.md R20), as plain data, and the state after reset
(R58). Names follow 10_state.md. -/

namespace Sys2Proof.Machine

/-! ### Status codes and events (30_encoding.md R104, R108) -/

/-- The status codes (R104). -/
inductive Status where
  | ok | error | errorBusy | errorUnsupported | errorParameter
  | modeError | frameFormatError | dataBitsError | bitOrderError | ssModeError
  deriving DecidableEq, Repr

/-! ### Runtime Info (R21 to R26) -/

/-- The Runtime Info of an instance. `st` and `mode` stay words: the document calls them a bitmask and
a word. -/
structure Runtime where
  /-- Lifecycle bitmask: bit 0 INITIALIZED, bit 1 POWERED, bit 2 CONFIGURED (R22). -/
  st : BitVec 3
  /-- Mode-configuration word: role [7:0], ff [11:8], bits [17:12], order [18], ssm [20:19], sss [21]
  (R23). -/
  mode : BitVec 22
  busy : Bool
  dataLost : Bool
  modeFault : Bool
  /-- Callback pointer; 0 is "no callback is registered" (R25). -/
  cb : Word
  deriving DecidableEq, Repr

/-! ### Transfer Descriptor (R27 to R30) -/

/-- The six fields of the Transfer Descriptor (R28). -/
structure Xfer where
  txBuf : Word
  rxBuf : Word
  num : Word
  txCnt : Word
  rxCnt : Word
  defVal : Word
  deriving DecidableEq, Repr

/-! ### Hardware control registers (R38 to R47) -/

/-- Direction mode (R39). -/
inductive Tmod where
  | txRx | txOnly | rxOnly
  deriving DecidableEq, Repr

/-- Protocol variant (R41). -/
inductive Frf where
  | motorolaSpi | tiSsi | microwire
  deriving DecidableEq, Repr

/-- The registers the engine programs (R38 to R47). -/
structure Hw where
  hwEn : Bool
  tmod : Tmod
  /-- Interrupt mask, 1 is unmasked: bit 0 TXE, 1 TXO, 2 RXU, 3 RXO, 4 RXF (R40). -/
  imr : BitVec 5
  frf : Frf
  cpol : Bool
  cpha : Bool
  dfs : BitVec 6
  spiStd : Bool
  ssSwStart : Bool
  ssActive : Vector Bool 4
  baudReq : Word
  clkEn : Bool
  pinsCfg : Bool
  irqEn : Bool
  deriving DecidableEq, Repr

/-! ### DMA channels (R49) -/

/-- Channel direction (R49). -/
inductive Dir where
  | tx | rx
  deriving DecidableEq, Repr

/-- Address-increment policy (R49). -/
inductive Inc where
  | fixed | inc
  deriving DecidableEq, Repr

/-- A DMA endpoint: the data register port of an instance, "by the symbol `DR(i)`" (20_memory.md
R61), or an address of host memory. -/
inductive Endpoint where
  | dr (i : Idx)
  | mem (a : Word)
  deriving DecidableEq, Repr

/-- A DMA Channel Config (R49); `size` in bits. -/
structure DmaCfg where
  size : Nat
  src : Endpoint
  dst : Endpoint
  srcInc : Inc
  dstInc : Inc
  arb : Nat
  beats : Nat
  deriving DecidableEq, Repr

/-- A beat of which some bytes have moved and others not: an access of the DMA agent is "not single-copy
atomic" (20_memory.md R69; log 29). `data` is what the data register answered when a receive beat began,
`bytes` the number and value of each byte that has moved. -/
structure Part where
  beat : Nat
  data : Word
  bytes : List (Nat × Byte)
  deriving DecidableEq, Repr

/-- The state of one channel: `{cfg, en}` of R49, the numbers of the beats the agent has performed since
the channel was enabled, in whatever order it chose (20_memory.md R81, 44_dma_completion.md R230; log 13),
the beats it is in the middle of (R69; log 29), and whether the channel was configured again while still
enabled (93_implementation_defined.md U7; log 14). -/
structure Channel where
  cfg : Option DmaCfg
  en : Bool
  done : List Nat
  flight : List Part
  stale : Bool
  deriving DecidableEq, Repr

/-! ### Environment inputs of an instance (R52, R53, R59) -/

/-- What the serial hardware and the DMA Channel Manager show the engine: raw conditions (bits as
`imr`), raw status flags, the value `DRRead` answers (20_memory.md R66; log 11), and the answers to
the next configure calls (42_transfer_dispatch.md R183; log 12). -/
structure Serial where
  raw : BitVec 5
  srRfne : Bool
  srTfnf : Bool
  srBusy : Bool
  drIn : Word
  txCfgOk : Bool
  rxCfgOk : Bool
  deriving DecidableEq, Repr

/-! ### One instance -/

/-- An instance: "one SPI hardware unit with its Instance Descriptor, Runtime Info and Transfer
Descriptor" (00_scope.md R18), its hardware registers, channels, environment inputs and data register
record. `drlog` is every value written to the data register (R51), `drReads` how many entries
`DRRead` has consumed (20_memory.md R66; log 11). -/
structure Spi where
  desc : Desc
  run : Runtime
  xfer : Xfer
  hw : Hw
  dmaTx : Channel
  dmaRx : Channel
  ser : Serial
  drlog : List Word
  drReads : Nat
  deriving DecidableEq, Repr

/-! ### Shared state -/

/-- The continuation of a spin-wait (43_interrupt_pump.md R216). -/
inductive Cont where
  | afterTx | afterFiller
  deriving DecidableEq, Repr

/-- The execution context (R34). -/
inductive Ctx where
  | foreground
  | isrWait (i : Idx) (k : Cont)
  deriving DecidableEq, Repr

/-- Which pins Initialize configures (40_lifecycle.md R121). -/
inductive PinSet where
  | fullSet | reducedSet
  deriving DecidableEq, Repr

/-- An entry of `xlog` (R50). -/
inductive XCall where
  | pinConfig (i : Idx) (set : PinSet)
  | dmaInit
  | clockEnable (i : Idx) (tag : Tag)
  | dmaConfigure (i : Idx) (d : Dir) (cfg : DmaCfg)
  | dmaEnable (i : Idx) (d : Dir)
  | dmaEngineEnable
  deriving DecidableEq, Repr

/-- An entry of `evlog`: one callback invocation `(i, cb[i], mask)` (R51). -/
structure Event where
  inst : Idx
  cb : Word
  mask : Word
  deriving DecidableEq, Repr

/-- What the environment can do between engine steps (00_scope.md R15; log 5). -/
inductive EnvMove where
  /-- The serial hardware changes its raw conditions, flags and the data it presents (R52, R53). -/
  | serial (i : Idx) (raw : BitVec 5) (rfne tfnf busy : Bool) (dr : Word)
  /-- The answers the DMA Channel Manager will give to configure calls (R183). -/
  | configAnswer (i : Idx) (tx rx : Bool)
  /-- The DMA agent performs beat `k` of a channel, or what is left of it (20_memory.md R81; log 13). -/
  | dmaBeat (i : Idx) (d : Dir) (k : Nat)
  /-- The DMA agent moves byte `b` of beat `k`, apart from the rest of the beat (20_memory.md R69; log 29). -/
  | dmaByte (i : Idx) (d : Dir) (k b : Nat)
  /-- The DMA agent moves something, anything, on a channel re-armed while enabled (U7; log 14). -/
  | dmaStray (i : Idx) (d : Dir) (a : Word) (v : Word)
  /-- A byte of host memory is written by its owner or another bus master (20_memory.md R60, R75; log
  22). -/
  | busWrite (a : Word) (b : Byte)
  deriving DecidableEq, Repr

/-- One entry of the order in which the agents move (log 5). -/
inductive Input where
  | command (f : Frame)
  | stimulus (f : Frame)
  | env (e : EnvMove)
  /-- The handler in its spin-wait moves: phase B, when it is enabled (43_interrupt_pump.md R216; log 10). -/
  | resume
  deriving DecidableEq, Repr

/-- The machine's state (R20). -/
structure State where
  /-- Launch parameters (00_scope.md R11), written by no step (log 3). -/
  params : Params
  /-- The instance set `Inst` with each instance's state (00_scope.md R9). -/
  spis : List (Idx × Spi)
  /-- "current data width in bytes": 0 at reset only, else 1, 2 or 4 (R31). -/
  bpu : Nat
  /-- "current slave number", fixed for a run (R32; log 18). -/
  slaveNo : Fin 4
  ctx : Ctx
  dmaInit : Bool
  dmaEngineEn : Bool
  /-- Host memory, canonical (20_memory.md R60; log 2). -/
  mem : List Host.Cell
  xlog : List XCall
  evlog : List Event
  /-- What has been presented and not yet taken, in the order it moves (log 5). -/
  inputs : List Input
  /-- The last return word the command port answered (30_encoding.md R90; log 15). -/
  ret : Word
  deriving DecidableEq, Repr

/-- The block "has no synchronous trap" (60_exceptions.md R245) and memory is total (R250): no step
faults, and there is no fault to name. -/
inductive Fault where
  deriving DecidableEq, Repr

/-- Why a step has no meaning. Each is safe: the spec offers no such step. -/
inductive Refusal where
  /-- The instruction has no meaning yet. Raised by exec's arms only. Safe. -/
  | notModelled (mnemonic : String)
  /-- An operation or stimulus outside FOREGROUND: "a model does not offer that step" (60_exceptions.md
  R268). Raised by `command` and `stimulus`. Safe. -/
  | notForeground
  /-- A stimulus presented while its enabling condition does not hold (30_encoding.md R94,
  43_interrupt_pump.md R200, 44_dma_completion.md R230). Raised by `stimulus`. Safe. -/
  | stimulusNotEnabled
  /-- A stimulus or an environment move that names an instance outside `Inst` (30_encoding.md R91).
  Raised by `stimulus` and `applyEnv`. Safe. -/
  | noSuchInstance
  /-- A stimulus frame that is no stimulus (30_encoding.md R91, R92). Raised by `takeStimulus`. Safe. -/
  | malformedStimulus
  /-- A DMA move of a channel that has none to make (20_memory.md R81). Raised by `applyEnv`. Safe. -/
  | beatNotOffered
  deriving DecidableEq, Repr

/-! ### Reset (R58) -/

/-- The Runtime Info after reset: all zero (R58). -/
def Runtime.reset : Runtime :=
  { st := 0, mode := 0, busy := false, dataLost := false, modeFault := false, cb := 0 }

/-- The Transfer Descriptor after reset: all zero (R58). -/
def Xfer.reset : Xfer := { txBuf := 0, rxBuf := 0, num := 0, txCnt := 0, rxCnt := 0, defVal := 0 }

/-- The hardware registers after reset (R58). -/
def Hw.reset : Hw :=
  { hwEn := false, tmod := .txRx, imr := 0, frf := .motorolaSpi, cpol := false, cpha := false, dfs := 0
    spiStd := false, ssSwStart := false, ssActive := #v[false, false, false, false], baudReq := 0
    clkEn := false, pinsCfg := false, irqEn := false }

/-- A channel after reset: `{NONE, false}` (R58; `done`, `stale` and `flight` log 13, 14, 29). -/
def Channel.reset : Channel := { cfg := none, en := false, done := [], flight := [], stale := false }

/-- The environment inputs at the first step: "unspecified" (R58); the model starts them at these
values and any environment move may change them first (DESIGN CHOICE, log 1). -/
def Serial.reset : Serial :=
  { raw := 0, srRfne := false, srTfnf := false, srBusy := false, drIn := 0, txCfgOk := true, rxCfgOk := true }

/-- An instance after reset. -/
def Spi.reset (d : Desc) : Spi :=
  { desc := d, run := .reset, xfer := .reset, hw := .reset, dmaTx := .reset, dmaRx := .reset, ser := .reset
    drlog := [], drReads := 0 }

/-- The machine right after reset (R58, R290, R291), on the reference platform of 95_test_vectors.md
section 0 (DESIGN CHOICE, log 3). -/
def State.reset : State :=
  { params := Config.refParams
    spis := [(0, .reset (Config.refDesc .master true false)), (1, .reset (Config.refDesc .slave false false)),
      (2, .reset (Config.refDesc .ulpMaster false true))]
    bpu := 0, slaveNo := 0, ctx := .foreground, dmaInit := false, dmaEngineEn := false, mem := []
    xlog := [], evlog := [], inputs := [], ret := 0 }

end Sys2Proof.Machine
end

