-- ==== Sys2Proof/Machine/Flags.lean ====
section
/-! DEFINITION. Lifecycle bits (10_state.md R22, R36), the status triple (R37), the interrupt mask and
the conditions the handler tests (R40, R52, 43_interrupt_pump.md R200, R202). -/

namespace Sys2Proof.Machine

/-! ### Lifecycle bits -/

/-- `st[i][0]`, INITIALIZED (R22). -/
def Runtime.initialized (r : Runtime) : Bool := r.st.getLsbD 0

/-- `st[i][1]`, POWERED (R22). -/
def Runtime.powered (r : Runtime) : Bool := r.st.getLsbD 1

/-- `st[i][2]`, CONFIGURED (R22). -/
def Runtime.configured (r : Runtime) : Bool := r.st.getLsbD 2

/-- `st[i][0] <- 1` (R121). -/
def Runtime.setInitialized (r : Runtime) : Runtime := { r with st := r.st ||| 0b001#3 }

/-- `st[i][1] <- 1` (R127). -/
def Runtime.setPowered (r : Runtime) : Runtime := { r with st := r.st ||| 0b010#3 }

/-- `st[i][1] <- 0` (R125). -/
def Runtime.clearPowered (r : Runtime) : Runtime := { r with st := r.st &&& 0b101#3 }

/-- `st[i][2] <- 1` (R154). -/
def Runtime.setConfigured (r : Runtime) : Runtime := { r with st := r.st ||| 0b100#3 }

/-- `st[i][2] <- 0` (R145). -/
def Runtime.clearConfigured (r : Runtime) : Runtime := { r with st := r.st &&& 0b011#3 }

/-! ### The status triple -/

/-- "zeroes the status triple" (R125, R127). -/
def Runtime.zeroTriple (r : Runtime) : Runtime := { r with busy := false, dataLost := false, modeFault := false }

/-- "sets busy=true, clears data_lost/mode_fault" (R170, R175). -/
def Runtime.acceptTriple (r : Runtime) : Runtime := { r with busy := true, dataLost := false, modeFault := false }

/-- `busy[i] <- 0` (R141, R206, R211, R231, R233). -/
def Runtime.clearBusy (r : Runtime) : Runtime := { r with busy := false }

/-- `data_lost[i] <- 1` (R203). -/
def Runtime.setDataLost (r : Runtime) : Runtime := { r with dataLost := true }

/-- `{0[28:0], mode_fault, data_lost, busy}` (R107, R191). -/
def Runtime.statusWord (r : Runtime) : Word :=
  0#29 ++ BitVec.ofBool r.modeFault ++ BitVec.ofBool r.dataLost ++ BitVec.ofBool r.busy

/-! ### Interrupt sources (R40) -/

/-- TXE, transmit-empty. -/
def srcTxe : BitVec 5 := 0b00001#5

/-- RXF, receive-full. -/
def srcRxf : BitVec 5 := 0b10000#5

/-- TXO, RXU and RXO: the overflow/underflow class (R203). -/
def srcOverflow : BitVec 5 := 0b01110#5

/-- The sources a direction unmasks (R186, 90_conflicts.md C1). -/
def Tmod.sources : Tmod → BitVec 5
  | .txOnly => 0b00011#5
  | .rxOnly => 0b11100#5
  | .txRx => 0b11111#5

/-- `imr[i] <- imr[i] OR ...` (R186). -/
def Hw.unmask (h : Hw) (b : BitVec 5) : Hw := { h with imr := h.imr ||| b }

/-- Clears mask bits: `imr[i][RXF] <- 0`, `imr[i][TXE] <- 0` (R206, R211). -/
def Hw.maskOff (h : Hw) (b : BitVec 5) : Hw := { h with imr := h.imr &&& ~~~b }

/-! ### Conditions of the handler -/

/-- `isr[i] = raw[i] AND imr[i]` (R52, R253). -/
def Spi.isr (x : Spi) : BitVec 5 := x.ser.raw &&& x.hw.imr

/-- The handler's enabling condition, apart from the context (R200). -/
def Spi.irqEnabled (x : Spi) : Bool := x.hw.irqEn && x.isr != 0

/-- C1: an unmasked overflow or underflow (R202). -/
def Spi.overflowPending (x : Spi) : Bool := x.isr &&& srcOverflow != 0

/-- C2: data available and receive-full (R202). -/
def Spi.receiveReady (x : Spi) : Bool := x.ser.srRfne && x.isr &&& srcRxf != 0

/-- C3: FIFO space, transmit-empty, and a transmit buffer (R202). -/
def Spi.transmitReady (x : Spi) : Bool := x.ser.srTfnf && x.isr &&& srcTxe != 0 && x.xfer.txBuf != 0

/-- Step 1 "clears the three corresponding status registers" (R203). -/
def Serial.clearOverflow (e : Serial) : Serial := { e with raw := e.raw &&& ~~~srcOverflow }

end Sys2Proof.Machine
end

