-- ==== Sys2Proof/Machine/Operands.lean ====
section
/-! DEFINITION. Operand forms: the control word's fields as the mode word keeps them (10_state.md R23),
the validation of a mode select (41_control.md R143 to R153), the unit size (20_memory.md R64), the
operands of a transfer call (42_transfer_dispatch.md R171) and the endpoints of a DMA config (R181,
R182). -/

namespace Sys2Proof.Machine

/-! ### The mode word (R23) -/

/-- Role INACTIVE. -/
def roleInactive : BitVec 8 := 0x00

/-- Role MASTER. -/
def roleMaster : BitVec 8 := 0x01

/-- Role SLAVE. -/
def roleSlave : BitVec 8 := 0x02

/-- The mode word with the given fields (R23). -/
def modeWord (role : BitVec 8) (ff : BitVec 4) (bits : BitVec 6) (order : BitVec 1) (ssm : BitVec 2)
    (sss : BitVec 1) : BitVec 22 := sss ++ ssm ++ order ++ bits ++ ff ++ role

/-- `mode[i].role` (R23). -/
def Runtime.role (r : Runtime) : BitVec 8 := r.mode.extractLsb' 0 8

/-- `mode[i].ff` (R23). -/
def Runtime.ff (r : Runtime) : BitVec 4 := r.mode.extractLsb' 8 4

/-- `mode[i].bits` (R23). -/
def Runtime.bits (r : Runtime) : BitVec 6 := r.mode.extractLsb' 12 6

/-- `mode[i].order` (R23). -/
def Runtime.order (r : Runtime) : BitVec 1 := r.mode.extractLsb' 18 1

/-- `mode[i].ssm` (R23). -/
def Runtime.ssm (r : Runtime) : BitVec 2 := r.mode.extractLsb' 19 2

/-- `mode[i].sss` (R23). -/
def Runtime.sss (r : Runtime) : BitVec 1 := r.mode.extractLsb' 21 1

/-- `mode[i].role <- INACTIVE`, the other fields kept (R145). -/
def Runtime.inactiveRole (r : Runtime) : Runtime :=
  { r with mode := r.mode.extractLsb' 8 14 ++ roleInactive }

/-- Slave-select policy UNUSED (R102). -/
def ssmUnused : BitVec 2 := 0

/-- Slave-select policy SOFTWARE (R102). -/
def ssmSoftware : BitVec 2 := 1

/-! ### What the rules read of the Instance Descriptor -/

/-- `cs_present[i][k]` (00_scope.md R10). -/
def csPresent (d : Desc) (k : Fin 4) : Bool := (d.cs[k]).isSome

/-- The tag is MASTER or ULP_MASTER (R185, R207, R233). -/
def isMasterTag : Tag → Bool
  | .master => true
  | .ulpMaster => true
  | .slave => false

/-- "any DMA channel is bound to this instance" (R177). -/
def dmaBound (d : Desc) : Bool := d.dmaTxBound || d.dmaRxBound

/-- The widest legal frame: 32 on a wide instance, 16 otherwise (R152). -/
def maxBits (d : Desc) : Nat := if d.wide then 32 else 16

/-- Which pins Initialize configures: "full pin set for MASTER/SLAVE, reduced pin set ... for
ULP_MASTER" (R121). -/
def pinSetOf : Tag → PinSet
  | .ulpMaster => .reducedSet
  | .master => .fullSet
  | .slave => .fullSet

/-- `WidthToBytes`: "w≤7→1, 8≤w≤15→2, w≥16→4" (R64). -/
def widthToBytes (bits : BitVec 6) : Nat :=
  if bits.toNat ≤ 7 then 1 else if bits.toNat ≤ 15 then 2 else 4

/-! ### Validation of a mode select (R143) -/

/-- "the first that fails decides the code returned" (R143): each check is the condition under which it
fails and its code. -/
def firstFailing : List (Bool × Status) → Option Status
  | [] => none
  | (fails, c) :: rest => if fails then some c else firstFailing rest

/-- V1 fails for MODE_MASTER: the bank is slave-only (R144). -/
def masterBankFails (d : Desc) : Bool := d.bank == .slaveOnly

/-- V1 fails for MODE_SLAVE: the bank is master-only (R144). -/
def slaveBankFails (d : Desc) : Bool := d.bank == .masterOnly

/-- V2 fails: a policy other than UNUSED and no chip-select of the current slave number (R149). -/
def ssFails (d : Desc) (slaveNo : Fin 4) (ssm : BitVec 2) : Bool := ssm != ssmUnused && !csPresent d slaveNo

/-- V3 fails: frame format above 5 (R151). -/
def ffFails (ff : BitVec 4) : Bool := decide (5 < ff.toNat)

/-- V4 fails: width below 4 or above the instance's maximum (R152). -/
def bitsFail (d : Desc) (bits : BitVec 6) : Bool := decide (bits.toNat < 4) || decide (maxBits d < bits.toNat)

/-- V5 fails: LSB-first requested (R153). -/
def orderFails (order : BitVec 1) : Bool := order == 1

/-- V1 to V5 of MODE_MASTER in order (R143, R146). -/
def masterChecks (d : Desc) (slaveNo : Fin 4) (ff : BitVec 4) (bits : BitVec 6) (order : BitVec 1)
    (ssm : BitVec 2) : Option Status :=
  firstFailing [(masterBankFails d, .modeError), (ssFails d slaveNo ssm, .ssModeError),
    (ffFails ff, .frameFormatError), (bitsFail d bits, .dataBitsError), (orderFails order, .bitOrderError)]

/-- V1, V3, V4, V5 of MODE_SLAVE in order: V2 does not apply (R147, R148). -/
def slaveChecks (d : Desc) (ff : BitVec 4) (bits : BitVec 6) (order : BitVec 1) : Option Status :=
  firstFailing [(slaveBankFails d, .modeError), (ffFails ff, .frameFormatError),
    (bitsFail d bits, .dataBitsError), (orderFails order, .bitOrderError)]

/-- The frame-format registers: FF 0 to 3 write the variant and polarity/phase, 4 and 5 the variant
alone (R99, R151). -/
def Hw.setFormat (h : Hw) (ff : BitVec 4) : Hw :=
  if ff = 4 then { h with frf := .tiSsi }
  else if ff = 5 then { h with frf := .microwire }
  else { h with frf := .motorolaSpi, cpol := ff.getLsbD 1, cpha := ff.getLsbD 0 }

/-! ### Operands of a transfer call -/

/-- P1 fails: a required pointer is null or the count is 0 (R171). -/
def paramsFail (required : List Word) (count : Word) : Bool := required.any (· == 0) || count == 0

/-- The total in bytes: `(count * bpu) mod 2^32` (R175, R176). -/
def totalBytes (count : Word) (bpu : Nat) : Word := count * BitVec.ofNat 32 bpu

/-- Beats: `min(count, DMA_MAX_BEATS)` (R180). -/
def beatCount (count : Word) : Nat := min count.toNat Config.dmaMaxBeats

/-- The memory side of a DMA config: the buffer with increment, or the scratch word without (R181,
R182). -/
def memorySide (scratchAddr buf : Word) : Endpoint × Inc :=
  if buf = 0 then (.mem scratchAddr, .fixed) else (.mem buf, .inc)

/-- The transmit channel's config (R181). -/
def txConfig (i : Idx) (p : Params) (bpu : Nat) (count txBuf : Word) : DmaCfg :=
  { size := 8 * bpu
    src := (memorySide p.scratchAddr txBuf).1
    dst := .dr i
    srcInc := (memorySide p.scratchAddr txBuf).2
    dstInc := .fixed
    arb := p.dmaArb
    beats := beatCount count }

/-- The receive channel's config (R182). -/
def rxConfig (i : Idx) (p : Params) (bpu : Nat) (count rxBuf : Word) : DmaCfg :=
  { size := 8 * bpu
    src := .dr i
    dst := (memorySide p.scratchAddr rxBuf).1
    srcInc := .fixed
    dstInc := (memorySide p.scratchAddr rxBuf).2
    arb := p.dmaArb
    beats := beatCount count }

/-- The address of beat `k`: `base + k*(size/8)` when INC, `base` when FIXED (20_memory.md R81), modulo
2^32 (R70). -/
def beatAddr (base : Word) (policy : Inc) (k size : Nat) : Word :=
  match policy with
  | .fixed => base
  | .inc => base + BitVec.ofNat 32 (k * (size / 8))

end Sys2Proof.Machine
end

