-- ==== Sys2Proof/Machine/Ops.lean ====
section
/-! DEFINITION. The named operations the meanings are built from: host memory (20_memory.md), the
instance table, the return word, the output logs, the data register, entering and leaving an operation
or a handler. -/

namespace Sys2Proof.Machine

/-! ### Host memory (20_memory.md R60, R63) -/

/-- What an address that is not listed reads as (R58 leaves it unspecified; DESIGN CHOICE, log 2). -/
def memDefault : Byte := 0

/-- One byte of memory. -/
def readCell : List Host.Cell → Nat → Byte
  | [], _ => memDefault
  | (k, b) :: rest, a => if k = a then b else readCell rest a

/-- Puts a byte in front of the rest, unless an unlisted address reads the same. -/
def consCell (a : Nat) (b : Byte) (rest : List Host.Cell) : List Host.Cell :=
  if b = memDefault then rest else (a, b) :: rest

/-- Writes one byte, keeping the canonical form. -/
def writeCell : List Host.Cell → Nat → Byte → List Host.Cell
  | [], a, b => consCell a b []
  | (k, c) :: rest, a, b =>
    if a < k then consCell a b ((k, c) :: rest)
    else if a = k then consCell a b rest
    else (k, c) :: writeCell rest a b

/-- Addresses from `lo` on, strictly rising, below 2^32, and no listed byte equal to the default. -/
def Memory.wfFrom : Nat → List Host.Cell → Bool
  | _, [] => true
  | lo, (k, b) :: rest => decide (lo ≤ k) && decide (k < 2 ^ 32) && b != memDefault && Memory.wfFrom (k + 1) rest

/-- The canonical form of host memory. -/
def Memory.wf (m : List Host.Cell) : Bool := Memory.wfFrom 0 m

/-- `MemRead(a, n)`, low byte first, zero-extended to 32 bits; addresses modulo 2^32 (R63, R65,
R70). -/
def memRead (m : List Host.Cell) : Word → Nat → Word
  | _, 0 => 0
  | a, n + 1 => (readCell m a.toNat).setWidth 32 ||| memRead m (a + 1) n <<< 8

/-- `MemWrite(a, n, v)`: `Mem[a+k] <- v[8k+7:8k]`, addresses modulo 2^32 (R63, R70). -/
def memWrite (m : List Host.Cell) : Word → Nat → Word → List Host.Cell
  | _, 0, _ => m
  | a, n + 1, v => memWrite (writeCell m a.toNat (v.setWidth 8)) (a + 1) n (v >>> 8)

/-- The unit a transmit beat reads, some of its bytes read before: `bytes` has their numbers and values, the
others are read now (R63, R69); byte `b` is the next. -/
def memFetch (m : List Host.Cell) (bytes : List (Nat × Byte)) : Word → Nat → Nat → Word
  | _, 0, _ => 0
  | a, n + 1, b =>
    ((bytes.lookup b).getD (readCell m a.toNat)).setWidth 32 ||| memFetch m bytes (a + 1) n (b + 1) <<< 8

/-- The bytes a receive beat has still to store: those whose number is not in `bytes` (R63, R69). -/
def memStore (m : List Host.Cell) (bytes : List (Nat × Byte)) : Word → Nat → Nat → Word → List Host.Cell
  | _, 0, _, _ => m
  | a, n + 1, b, v =>
    memStore (if (bytes.lookup b).isSome then m else writeCell m a.toNat (v.setWidth 8)) bytes (a + 1) n (b + 1) (v >>> 8)

/-- One byte of host memory, as statements read it. -/
def State.byte (s : State) (a : Word) : Byte := readCell s.mem a.toNat

/-- The scratch word: the 4 bytes at `SCRATCH_ADDR` (10_state.md R33). -/
def State.scratch (s : State) : Word := memRead s.mem s.params.scratchAddr 4

/-! ### The instance table (00_scope.md R9) -/

/-- The instance with index `i`. -/
def findSpi : List (Idx × Spi) → Idx → Option Spi
  | [], _ => none
  | (j, x) :: rest, i => if j = i then some x else findSpi rest i

/-- Replaces the instance with index `i`. -/
def setSpi : List (Idx × Spi) → Idx → Spi → List (Idx × Spi)
  | [], _, _ => []
  | (j, y) :: rest, i, x => if j = i then (j, x) :: rest else (j, y) :: setSpi rest i x

/-- The instance set `Inst`. -/
def State.insts (s : State) : List Idx := s.spis.map Prod.fst

/-- Instance `i` of the state, if it is a member of `Inst`. -/
def State.spi? (s : State) (i : Idx) : Option Spi := findSpi s.spis i

/-- Writes instance `i`. -/
def State.put (s : State) (i : Idx) (x : Spi) : State := { s with spis := setSpi s.spis i x }

/-! ### The return word and the logs -/

/-- The 32-bit two's-complement value of a status code (R104). -/
def Status.word : Status → Word
  | .ok => BitVec.ofInt 32 0
  | .error => BitVec.ofInt 32 (-1)
  | .errorBusy => BitVec.ofInt 32 (-2)
  | .errorUnsupported => BitVec.ofInt 32 (-4)
  | .errorParameter => BitVec.ofInt 32 (-5)
  | .modeError => BitVec.ofInt 32 (-6)
  | .frameFormatError => BitVec.ofInt 32 (-7)
  | .dataBitsError => BitVec.ofInt 32 (-8)
  | .bitOrderError => BitVec.ofInt 32 (-9)
  | .ssModeError => BitVec.ofInt 32 (-10)

/-- Answers a value on the command port (R90). -/
def State.answer (s : State) (v : Word) : State := { s with ret := v }

/-- Answers a status code: `return c` (00_scope.md R13, 60_exceptions.md R245). -/
def State.reply (s : State) (c : Status) : State := s.answer c.word

/-- `xcall`: calls to collaborators, appended in order (R50). -/
def State.xcalls (s : State) (calls : List XCall) : State := { s with xlog := s.xlog ++ calls }

/-- TRANSFER_COMPLETE (R108). -/
def evTransferComplete : Word := 0x1

/-- DATA_LOST (R108). -/
def evDataLost : Word := 0x2

/-- `emit(i, m)`: delivered when a callback is registered and the mask is not 0 (60_exceptions.md
R262). -/
def State.emit (s : State) (i : Idx) (cb : Word) (m : Word) : State :=
  if m ≠ 0 ∧ cb ≠ 0 then { s with evlog := s.evlog ++ [⟨i, cb, m⟩] } else s

/-! ### The data register (20_memory.md R66) -/

/-- `DRWrite(i, v)`. -/
def Spi.drWrite (x : Spi) (v : Word) : Spi := { x with drlog := x.drlog ++ [v] }

/-- `DRRead(i)`: the value is `ser.drIn`; one receive entry is consumed (log 11). -/
def Spi.drRead (x : Spi) : Spi := { x with drReads := x.drReads + 1 }

/-- The dummy byte as the data register takes it: `zext_32(DUMMY_BYTE)` (R68, R185, R207). -/
def dummyWord (p : Params) : Word := p.dummyByte.setWidth 32

/-! ### The Transfer Descriptor -/

/-- `ClearXfer` (R29). -/
def Xfer.cleared : Xfer := { txBuf := 0, rxBuf := 0, num := 0, txCnt := 0, rxCnt := 0, defVal := 0 }

/-- `ClearXfer(i)` (R29). -/
def Spi.clearXfer (x : Spi) : Spi := { x with xfer := .cleared }

/-! ### Contexts (60_exceptions.md R258, R259, R266) -/

/-- One host operation: taken in FOREGROUND only (R268); an instance outside `Inst` makes the frame
malformed, ERROR_UNSUPPORTED with no state change (R109). -/
def command (i : Idx) (s : State) (body : Spi → State) : Host.Outcome State Fault Refusal :=
  match s.ctx with
  | .isrWait _ _ => .refused .notForeground
  | .foreground =>
    match s.spi? i with
    | none => .next (s.reply .errorUnsupported)
    | some x => .next (body x)

/-- Taking a stimulus: "saves nothing and changes no mode bit, mask or stack" (R258); taken in
FOREGROUND, by an instance of `Inst`, when its enabling condition holds (R94, R200, R230; log 7). -/
def stimulus (i : Idx) (s : State) (enabled : Spi → Bool) (body : Spi → State) :
    Host.Outcome State Fault Refusal :=
  match s.ctx with
  | .isrWait _ _ => .refused .notForeground
  | .foreground =>
    match s.spi? i with
    | none => .refused .noSuchInstance
    | some x => if enabled x then .next (body x) else .refused .stimulusNotEnabled

/-- `ctx <- ISR_WAIT(i, k)`: phase A ends in the spin-wait (R216). -/
def State.hold (s : State) (i : Idx) (k : Cont) : State := { s with ctx := .isrWait i k }

/-- The return from the handler: `ctx <- FOREGROUND`, nothing else to restore (R216, R259). -/
def State.leaveHandler (s : State) : State := { s with ctx := .foreground }

end Sys2Proof.Machine
end

