-- ==== Sys2Proof/Machine/Control.lean ====
section
/-! DEFINITION. The Control operation and its sub-opcodes (41_control.md). -/

namespace Sys2Proof.Machine

/-- The entry checks of every control code but abort: POWERED, then busy (R140). -/
def controlCall (i : Idx) (s : State) (body : Spi → State) : Host.Outcome State Fault Refusal :=
  command i s fun x =>
    if !x.run.powered then s.reply .error
    else if x.run.busy then s.reply .errorBusy
    else body x

/-- CTL_ABORT_TRANSFER: POWERED is tested, busy is not (R140, R141). -/
def execCtlAbortTransfer (i : Idx) (s : State) : Host.Outcome State Fault Refusal :=
  command i s fun x =>
    if !x.run.powered then s.reply .error
    else (s.put i { x.clearXfer with run := x.run.clearBusy }).reply .ok

/-- CTL_MODE_INACTIVE (R145). -/
def execCtlModeInactive (i : Idx) (s : State) : Host.Outcome State Fault Refusal :=
  controlCall i s fun x => (s.put i { x with run := x.run.inactiveRole.clearConfigured }).reply .ok

/-- The commit of a mode select on the instance: mode word, CONFIGURED, frame format, data frame size,
and "standard-SPI framing, software slave-select start-state, and all transfer interrupts masked" (R154,
R151, R152, R155). -/
def Spi.commitMode (x : Spi) (mode : BitVec 22) (ff : BitVec 4) (bits : BitVec 6) : Spi :=
  { x with
    run := { x.run.setConfigured with mode := mode }
    hw := { x.hw.setFormat ff with dfs := bits, spiStd := true, ssSwStart := true, imr := 0 } }

/-- `SetSpeed(i, v)`, shared by MODE_MASTER and SET_BUS_SPEED (R157). -/
def Spi.setSpeed (x : Spi) (v : Word) : Spi := { x with hw := { x.hw with baudReq := v } }

/-- CTL_MODE_MASTER: V1 to V5, commit with role MASTER, bus speed (R143, R146). -/
def execCtlModeMaster (i : Idx) (ff : BitVec 4) (bits : BitVec 6) (order : BitVec 1) (ssm : BitVec 2)
    (speed : Word) (s : State) : Host.Outcome State Fault Refusal :=
  controlCall i s fun x =>
    match masterChecks x.desc s.slaveNo ff bits order ssm with
    | some c => s.reply c
    | none =>
      { (s.put i ((x.commitMode (modeWord roleMaster ff bits 0 ssm 0) ff bits).setSpeed speed)).reply .ok with
        bpu := widthToBytes bits }

/-- CTL_MODE_SLAVE: V1, V3, V4, V5, commit with role SLAVE (R147). -/
def execCtlModeSlave (i : Idx) (ff : BitVec 4) (bits : BitVec 6) (order : BitVec 1) (sss : BitVec 1)
    (s : State) : Host.Outcome State Fault Refusal :=
  controlCall i s fun x =>
    match slaveChecks x.desc ff bits order with
    | some c => s.reply c
    | none =>
      { (s.put i (x.commitMode (modeWord roleSlave ff bits 0 0 sss) ff bits)).reply .ok with
        bpu := widthToBytes bits }

/-- CTL_SET_BUS_SPEED (R158). -/
def execCtlSetBusSpeed (i : Idx) (speed : Word) (s : State) : Host.Outcome State Fault Refusal :=
  controlCall i s fun x => (s.put i (x.setSpeed speed)).reply .ok

/-- CTL_GET_BUS_SPEED: answers `BAUD_ACTUAL(baud_req[i])` (R105, R159). -/
def execCtlGetBusSpeed (i : Idx) (s : State) : Host.Outcome State Fault Refusal :=
  controlCall i s fun x => s.answer (Config.baudActual x.hw.baudReq)

/-- CTL_SET_DEFAULT_TX_VALUE (R160). -/
def execCtlSetDefaultTxValue (i : Idx) (value : Word) (s : State) : Host.Outcome State Fault Refusal :=
  controlCall i s fun x => (s.put i { x with xfer := { x.xfer with defVal := value } }).reply .ok

/-- Drives slave-select line `k` (R162, R234). -/
def Spi.driveSs (x : Spi) (k : Fin 4) (active : Bool) : Spi :=
  { x with hw := { x.hw with ssActive := x.hw.ssActive.set k active } }

/-- CTL_CONTROL_SS: ERROR unless master with the software policy (R162, R163). -/
def execCtlControlSs (i : Idx) (active : Word) (s : State) : Host.Outcome State Fault Refusal :=
  controlCall i s fun x =>
    if x.run.role ≠ roleMaster ∨ x.run.ssm ≠ ssmSoftware then s.reply .error
    else (s.put i (x.driveSs s.slaveNo (active != 0))).reply .ok

/-- CONTROL with a code the table has no row for: `ERROR_UNSUPPORTED` after the entry checks (R164). -/
def answerControlCode (i : Idx) (s : State) : Host.Outcome State Fault Refusal :=
  controlCall i s fun _ => s.reply .errorUnsupported

end Sys2Proof.Machine
end

