-- ==== Sys2Proof/Machine/DmaDone.lean ====
section
/-! DEFINITION. The DMA completion callbacks (44_dma_completion.md). -/

namespace Sys2Proof.Machine

/-- "the DMA agent has performed all `cfg.beats` beats of that channel since it was enabled" (R230); of a
channel re-armed while enabled the spec does not say when it finishes, so it may at any time (log 14). -/
def Channel.finished (c : Channel) : Bool :=
  c.stale || match c.cfg with
    | none => true
    | some g => (List.range g.beats).all fun k => c.done.contains k

/-- An ERROR may be delivered: channel and engine enabled (R230). -/
def Channel.mayError (engineEn : Bool) (c : Channel) : Bool := engineEn && c.en

/-- DONE may be delivered: channel and engine enabled, every beat performed (R230). -/
def Channel.mayFinish (engineEn : Bool) (c : Channel) : Bool := engineEn && c.en && c.finished

/-- Delivery: "the channel is one-shot" (R230). -/
def Channel.delivered (c : Channel) : Channel := { c with en := false, stale := false }

/-- The instance after transmit-done (R231). -/
def Spi.txDone (x : Spi) : Spi :=
  { x with
    dmaTx := x.dmaTx.delivered
    xfer := { x.xfer with txCnt := x.xfer.num }
    run := x.run.clearBusy }

/-- DMA_TX_DONE: TRANSFER_COMPLETE only in TX_ONLY (R231). -/
def execDmaTxDone (i : Idx) (s : State) : Host.Outcome State Fault Refusal :=
  stimulus i s (fun x => x.dmaTx.mayFinish s.dmaEngineEn) fun x =>
    if x.hw.tmod = .txOnly then (s.put i x.txDone).emit i x.run.cb evTransferComplete
    else s.put i x.txDone

/-- The instance after receive-done, before the slave-select line (R233). -/
def Spi.rxDone (x : Spi) : Spi :=
  { x with
    dmaRx := x.dmaRx.delivered
    xfer := { x.xfer with rxCnt := x.xfer.num }
    run := x.run.clearBusy }

/-- The slave-select deassert of master and ULP-master instances (R234). -/
def Spi.deassertSs (x : Spi) (k : Fin 4) : Spi := if isMasterTag x.desc.tag then x.driveSs k false else x

/-- DMA_RX_DONE: "Always raises `TRANSFER_COMPLETE`" (R233). -/
def execDmaRxDone (i : Idx) (s : State) : Host.Outcome State Fault Refusal :=
  stimulus i s (fun x => x.dmaRx.mayFinish s.dmaEngineEn) fun x =>
    (s.put i (x.rxDone.deassertSs s.slaveNo)).emit i x.run.cb evTransferComplete

/-- DMA_TX_ERROR: "currently swallowed"; only the delivery's effect on the channel (R235). The kind is
any number but 0 (R94). -/
def execDmaTxError (i : Idx) (_kind : Word) (s : State) : Host.Outcome State Fault Refusal :=
  stimulus i s (fun x => x.dmaTx.mayError s.dmaEngineEn) fun x => s.put i { x with dmaTx := x.dmaTx.delivered }

/-- DMA_RX_ERROR (R235). -/
def execDmaRxError (i : Idx) (_kind : Word) (s : State) : Host.Outcome State Fault Refusal :=
  stimulus i s (fun x => x.dmaRx.mayError s.dmaEngineEn) fun x => s.put i { x with dmaRx := x.dmaRx.delivered }

end Sys2Proof.Machine
end

