-- ==== Sys2Proof/Machine/Lifecycle.lean ====
section
/-! DEFINITION. The lifecycle operations (40_lifecycle.md): Initialize, Uninitialize, PowerControl. -/

namespace Sys2Proof.Machine

/-- The collaborator calls of an Initialize that takes effect, in order (R121, R122). -/
def initCalls (i : Idx) (d : Desc) : List XCall :=
  .pinConfig i (pinSetOf d.tag) :: if dmaBound d then [.dmaInit] else []

/-- The instance after an Initialize that takes effect (R121). -/
def Spi.initialize' (x : Spi) (cb : Word) : Spi :=
  { x.clearXfer with
    hw := { x.hw with pinsCfg := true }
    run := { x.run.setInitialized with cb := cb } }

/-- INITIALIZE: a no-op success when INITIALIZED (R120), else R121. -/
def execInitialize (i : Idx) (cb : Word) (s : State) : Host.Outcome State Fault Refusal :=
  command i s fun x =>
    if x.run.initialized then s.reply .ok
    else
      { ((s.xcalls (initCalls i x.desc)).put i (x.initialize' cb)).reply .ok with
        dmaInit := s.dmaInit || dmaBound x.desc }

/-- The Runtime Info after Uninitialize: all of it zeroed (R26, R123). -/
def Runtime.zeroed : Runtime :=
  { st := 0, mode := 0, busy := false, dataLost := false, modeFault := false, cb := 0 }

/-- UNINITIALIZE: zeroes the Runtime Info and nothing else (R123). -/
def execUninitialize (i : Idx) (s : State) : Host.Outcome State Fault Refusal :=
  command i s fun x => (s.put i { x with run := .zeroed }).reply .ok

/-- The instance after PowerControl(OFF) (R125). -/
def Spi.powerOff (x : Spi) : Spi :=
  { x.clearXfer with
    hw := { x.hw with irqEn := false, hwEn := false }
    run := x.run.zeroTriple.clearPowered }

/-- POWER_OFF: "Always succeeds" (R125). -/
def execPowerOff (i : Idx) (s : State) : Host.Outcome State Fault Refusal :=
  command i s fun x => (s.put i x.powerOff).reply .ok

/-- POWER_LOW: "unsupported, fails with `ERROR_UNSUPPORTED`" (R126). -/
def execPowerLow (i : Idx) (s : State) : Host.Outcome State Fault Refusal :=
  command i s fun _ => s.reply .errorUnsupported

/-- The instance after a PowerControl(FULL) that takes effect (R127). -/
def Spi.powerFull (x : Spi) : Spi :=
  { x with
    hw := { x.hw with clkEn := true, irqEn := true }
    run := x.run.zeroTriple.setPowered }

/-- POWER_FULL (R127). -/
def execPowerFull (i : Idx) (s : State) : Host.Outcome State Fault Refusal :=
  command i s fun x =>
    if !x.run.initialized then s.reply .error
    else if x.run.powered then s.reply .ok
    else ((s.xcalls [.clockEnable i x.desc.tag]).put i x.powerFull).reply .ok

/-- POWERCONTROL with a state number the table has no row for: `ERROR_UNSUPPORTED`, no state change
(R128). -/
def answerPowerState (i : Idx) (s : State) : Host.Outcome State Fault Refusal :=
  command i s fun _ => s.reply .errorUnsupported

end Sys2Proof.Machine
end

