-- ==== Sys2Proof/Machine/Pump.lean ====
section
/-! DEFINITION. The interrupt handler, "byte/word pump" (43_interrupt_pump.md). -/

namespace Sys2Proof.Machine

/-- The unit size as a counter increment (R206, R210). -/
def unitWord (bpu : Nat) : Word := BitVec.ofNat 32 bpu

/-- Step 1 on the instance (R203). -/
def Spi.loseData (x : Spi) : Spi := { x with ser := x.ser.clearOverflow, run := x.run.setDataLost }

/-- Where a drained unit is stored (R206). -/
def Spi.drainAddr (x : Spi) : Word := x.xfer.rxBuf + x.xfer.rxCnt

/-- The drain's register effects: one data-register read, the receive counter advanced (R206). -/
def Spi.drained (x : Spi) (bpu : Nat) : Spi :=
  { x.drRead with xfer := { x.xfer with rxCnt := x.xfer.rxCnt + unitWord bpu } }

/-- Receive completion: RXF masked, busy cleared (R206). -/
def Spi.receiveComplete (x : Spi) : Spi := { x with hw := x.hw.maskOff srcRxf, run := x.run.clearBusy }

/-- The filler's condition, apart from completion: a master with no transmit buffer (R207). -/
def Spi.needsFiller (x : Spi) : Bool := isMasterTag x.desc.tag && x.xfer.txBuf == 0

/-- The drain, and after it completion, filler and hold, or nothing (R206, R207). -/
def drain (i : Idx) (x : Spi) (s : State) : State :=
  let m := memWrite s.mem x.drainAddr s.bpu x.ser.drIn
  let y := x.drained s.bpu
  let t : State := { s with mem := m }
  if y.xfer.rxCnt = y.xfer.num then (t.put i y.receiveComplete).emit i x.run.cb evTransferComplete
  else if y.needsFiller then (t.put i (y.drWrite (dummyWord s.params))).hold i .afterFiller
  else t.put i y

/-- Step 2, receive-ready (R204, R205, R208). -/
def receiveStep (i : Idx) (x : Spi) (s : State) : State :=
  if x.xfer.rxBuf = 0 then s
  else if x.xfer.rxCnt < x.xfer.num then drain i x s
  else s.emit i x.run.cb evDataLost

/-- The unit to transmit (R210). -/
def txUnit (x : Spi) (s : State) : Word := memRead s.mem (x.xfer.txBuf + x.xfer.txCnt) s.bpu

/-- The write's effects on the instance: the unit queued, the transmit counter advanced (R210). -/
def Spi.sent (x : Spi) (bpu : Nat) (v : Word) : Spi :=
  { x.drWrite v with xfer := { x.xfer with txCnt := x.xfer.txCnt + unitWord bpu } }

/-- Step 3, transmit-ready: write one unit and hold, or already complete (R209, R210, R212). -/
def transmitStep (i : Idx) (x : Spi) (s : State) : State :=
  if x.xfer.txCnt < x.xfer.num then (s.put i (x.sent s.bpu (txUnit x s))).hold i .afterTx
  else s.emit i x.run.cb evDataLost

/-- One invocation up to its end or its hold: the priority chain (R201, R217). -/
def handler (i : Idx) (x : Spi) (s : State) : State :=
  if x.overflowPending then (s.put i x.loseData).emit i x.run.cb evDataLost
  else if x.receiveReady then receiveStep i x s
  else if x.transmitReady then transmitStep i x s
  else s

/-- IRQ: taken exactly when the line is enabled and an unmasked condition is pending (R200). -/
def execIrq (i : Idx) (s : State) : Host.Outcome State Fault Refusal :=
  stimulus i s Spi.irqEnabled fun x => handler i x s

/-- Transmit completion in TX_ONLY (R211). -/
def Spi.transmitComplete (x : Spi) : Spi := { x with hw := x.hw.maskOff srcTxe, run := x.run.clearBusy }

/-- The completion test after a write (R211), with `P_TX_MASK`. -/
def finishTx (i : Idx) (x : Spi) (s : State) : State :=
  if x.xfer.txCnt = x.xfer.num then
    if x.hw.tmod = .txOnly then (s.put i x.transmitComplete).emit i x.run.cb evTransferComplete
    else if s.params.pTxMask = .always then s.put i { x with hw := x.hw.maskOff srcTxe }
    else s
  else s

/-- Phase B: the completion test after a write, delivery, and the return (R216). -/
def phaseB (i : Idx) (k : Cont) (x : Spi) (s : State) : State :=
  match k with
  | .afterTx => (finishTx i x s).leaveHandler
  | .afterFiller => s.leaveHandler

end Sys2Proof.Machine
end

