-- ==== Sys2Proof/Machine/Query.lean ====
section
/-! DEFINITION. The two queries (42_transfer_dispatch.md section 5). -/

namespace Sys2Proof.Machine

/-- GETDATACOUNT: the receive counter, 0 if not CONFIGURED (R190). -/
def execGetDataCount (i : Idx) (s : State) : Host.Outcome State Fault Refusal :=
  command i s fun x => s.answer (if x.run.configured then x.xfer.rxCnt else 0)

/-- GETSTATUS: the status triple (R191). -/
def execGetStatus (i : Idx) (s : State) : Host.Outcome State Fault Refusal :=
  command i s fun x => s.answer x.run.statusWord

end Sys2Proof.Machine
end

