-- ==== Sys2Proof/Machine/Transfer.lean ====
section
/-! DEFINITION. Transfer dispatch (42_transfer_dispatch.md): Send, Receive, Transfer, the DMA path and
the interrupt path. -/

namespace Sys2Proof.Machine

/-- The instance after the acceptance sequence (R175). -/
def Spi.accept (x : Spi) (tb rb count : Word) (bpu : Nat) (dir : Tmod) : Spi :=
  { x with
    run := x.run.acceptTriple
    xfer := { txBuf := tb, rxBuf := rb, num := totalBytes count bpu, txCnt := 0, rxCnt := 0, defVal := 0 }
    hw := { x.hw with tmod := dir, hwEn := true } }

/-! ### The DMA path (R178 to R185) -/

/-- A successful configure call on a channel; one made while the channel is still enabled marks it
(R181, R182, 93_implementation_defined.md U7, log 14). -/
def Channel.configure (c : Channel) (cfg : DmaCfg) : Channel :=
  { c with cfg := some cfg, stale := c.en }

/-- `dma_ch[i][d].en <- true` (R184); the beats count from here (R230). -/
def Channel.enable (c : Channel) : Channel := { c with en := true, done := [], flight := [] }

/-- The outcome of configuring the bound channels: the instance, the calls made, and whether every call
succeeded. -/
structure Arming where
  inst : Spi
  calls : List XCall
  ok : Bool
  deriving DecidableEq, Repr

/-- Configures the transmit channel when it is bound (R178, R181). -/
def Arming.configureTx (a : Arming) (i : Idx) (cfg : DmaCfg) : Arming :=
  if a.ok && a.inst.desc.dmaTxBound then
    { inst := if a.inst.ser.txCfgOk then { a.inst with dmaTx := a.inst.dmaTx.configure cfg } else a.inst
      calls := a.calls ++ [.dmaConfigure i .tx cfg]
      ok := a.inst.ser.txCfgOk }
  else a

/-- Configures the receive channel when it is bound and nothing failed before (R178, R182, R183). -/
def Arming.configureRx (a : Arming) (i : Idx) (cfg : DmaCfg) : Arming :=
  if a.ok && a.inst.desc.dmaRxBound then
    { inst := if a.inst.ser.rxCfgOk then { a.inst with dmaRx := a.inst.dmaRx.configure cfg } else a.inst
      calls := a.calls ++ [.dmaConfigure i .rx cfg]
      ok := a.inst.ser.rxCfgOk }
  else a

/-- Configures every bound channel, transmit first (R178). -/
def configureAll (i : Idx) (p : Params) (bpu : Nat) (count : Word) (x : Spi) : Arming :=
  let a : Arming := { inst := x, calls := [], ok := true }
  (a.configureTx i (txConfig i p bpu count x.xfer.txBuf)).configureRx i (rxConfig i p bpu count x.xfer.rxBuf)

/-- Enables every bound channel (R184). -/
def Spi.enableBound (x : Spi) : Spi :=
  { x with
    dmaTx := if x.desc.dmaTxBound then x.dmaTx.enable else x.dmaTx
    dmaRx := if x.desc.dmaRxBound then x.dmaRx.enable else x.dmaRx }

/-- The enable calls, transmit first, the engine last (R184). -/
def enableCalls (i : Idx) (d : Desc) : List XCall :=
  (if d.dmaTxBound then [.dmaEnable i .tx] else []) ++ (if d.dmaRxBound then [.dmaEnable i .rx] else []) ++
    [.dmaEngineEnable]

/-- "for receive-only mode separately pushes one dummy byte through the data register to kick-start
clocking on master instances" (R185). -/
def Spi.kickStart (x : Spi) (p : Params) (dir : Tmod) : Spi :=
  if dir = .rxOnly ∧ isMasterTag x.desc.tag then x.drWrite (dummyWord p) else x

/-- `ArmDma(i, count, dir)` on the accepted instance `x` (R178, R183). -/
def armDma (i : Idx) (count : Word) (dir : Tmod) (x : Spi) (s : State) : State :=
  let a := configureAll i s.params s.bpu count x
  if a.ok then
    { ((s.xcalls (a.calls ++ enableCalls i x.desc)).put i (a.inst.enableBound.kickStart s.params dir)).reply .ok with
      dmaEngineEn := true }
  else ((s.xcalls a.calls).put i a.inst).reply .error

/-- `UnmaskIrq(i, dir)` on the accepted instance `x` (R186). -/
def unmaskIrq (i : Idx) (dir : Tmod) (x : Spi) (s : State) : State :=
  (s.put i { x with hw := x.hw.unmask dir.sources }).reply .ok

/-- `Accept`: the acceptance sequence, then the DMA path if any channel is bound, else the interrupt path
(R175, R177). -/
def accept (i : Idx) (tb rb count : Word) (dir : Tmod) (x : Spi) (s : State) : State :=
  let y := x.accept tb rb count s.bpu dir
  if dmaBound x.desc then armDma i count dir y s else unmaskIrq i dir y s

/-! ### The three entry points -/

/-- The preconditions P1, P2, P3 of a transfer call, in order, then `Accept` (R170, R171). -/
def transferCall (i : Idx) (s : State) (required : List Word) (count : Word) (body : Spi → State) :
    Host.Outcome State Fault Refusal :=
  command i s fun x =>
    if paramsFail required count then s.reply .errorParameter
    else if !x.run.configured then s.reply .error
    else if x.run.busy then s.reply .errorBusy
    else body x

/-- SEND (R172). -/
def execSend (i : Idx) (buffer count : Word) (s : State) : Host.Outcome State Fault Refusal :=
  transferCall i s [buffer] count fun x => accept i buffer 0 count .txOnly x s

/-- RECEIVE (R173). -/
def execReceive (i : Idx) (buffer count : Word) (s : State) : Host.Outcome State Fault Refusal :=
  transferCall i s [buffer] count fun x => accept i 0 buffer count .rxOnly x s

/-- TRANSFER (R174). -/
def execTransfer (i : Idx) (tx rx count : Word) (s : State) : Host.Outcome State Fault Refusal :=
  transferCall i s [tx, rx] count fun x => accept i tx rx count .txRx x s

end Sys2Proof.Machine
end

