-- ==== Sys2Proof/Machine/Dispatch.lean ====
section
/-! DEFINITION. The meaning of each instruction: one arm per constructor of Instr. -/

namespace Sys2Proof.Machine

def exec (i : Instr) (s : State) : Host.Outcome State Fault Refusal :=
  match i with
  | .initializeOp n cb => Sys2Proof.Machine.execInitialize n cb s
  | .uninitializeOp n => Sys2Proof.Machine.execUninitialize n s
  | .powerOff n => Sys2Proof.Machine.execPowerOff n s
  | .powerLow n => Sys2Proof.Machine.execPowerLow n s
  | .powerFull n => Sys2Proof.Machine.execPowerFull n s
  | .ctlModeInactive n => Sys2Proof.Machine.execCtlModeInactive n s
  | .ctlModeMaster n ff bits order ssm speed => Sys2Proof.Machine.execCtlModeMaster n ff bits order ssm speed s
  | .ctlModeSlave n ff bits order sss => Sys2Proof.Machine.execCtlModeSlave n ff bits order sss s
  | .ctlSetBusSpeed n speed => Sys2Proof.Machine.execCtlSetBusSpeed n speed s
  | .ctlGetBusSpeed n => Sys2Proof.Machine.execCtlGetBusSpeed n s
  | .ctlSetDefaultTxValue n value => Sys2Proof.Machine.execCtlSetDefaultTxValue n value s
  | .ctlControlSs n active => Sys2Proof.Machine.execCtlControlSs n active s
  | .ctlAbortTransfer n => Sys2Proof.Machine.execCtlAbortTransfer n s
  | .send n buffer count => Sys2Proof.Machine.execSend n buffer count s
  | .receive n buffer count => Sys2Proof.Machine.execReceive n buffer count s
  | .transfer n tx rx count => Sys2Proof.Machine.execTransfer n tx rx count s
  | .getDataCount n => Sys2Proof.Machine.execGetDataCount n s
  | .getStatus n => Sys2Proof.Machine.execGetStatus n s
  | .irq n => Sys2Proof.Machine.execIrq n s
  | .dmaTxDone n => Sys2Proof.Machine.execDmaTxDone n s
  | .dmaTxError n kind => Sys2Proof.Machine.execDmaTxError n kind s
  | .dmaRxDone n => Sys2Proof.Machine.execDmaRxDone n s
  | .dmaRxError n kind => Sys2Proof.Machine.execDmaRxError n kind s

end Sys2Proof.Machine
end

