-- ==== Sys2Proof/Machine/Environment.lean ====
section
/-! DEFINITION. The environment's moves (00_scope.md R15, log 5): the serial hardware's inputs (10_state.md
R52, R53), configure answers (42_transfer_dispatch.md R183), DMA beats (20_memory.md R81) and single bytes of them
(R69), writes of host memory (R60, R75). -/

namespace Sys2Proof.Machine

/-- Beat `k` may move: engine and channel enabled, and the beat one of the config's that is not performed yet; "when
the beats happen, relative to each other and to engine steps, is free" (R81, R184). -/
def Channel.mayBeat (engineEn : Bool) (c : Channel) (g : DmaCfg) (k : Nat) : Bool :=
  engineEn && c.en && !c.stale && decide (k < g.beats) && !c.done.contains k

/-- What has moved of beat `k`, if anything; a beat that begins now has `data` from the data register. -/
def Channel.part (c : Channel) (k : Nat) (data : Word) : Part :=
  (c.flight.find? fun p => p.beat == k).getD { beat := k, data := data, bytes := [] }

/-- The channel without what has moved of beat `k`. -/
def Channel.dropPart (c : Channel) (k : Nat) : Channel := { c with flight := c.flight.filter fun p => p.beat != k }

/-- The channel with `p` in place of what had moved of its beat. -/
def Channel.withPart (c : Channel) (p : Part) : Channel :=
  { c with flight := p :: (c.dropPart p.beat).flight }

/-- Beat `k` is performed. -/
def Channel.beatDone (c : Channel) (k : Nat) : Channel := { c.dropPart k with done := k :: c.done }

/-- Byte `b` of a beat has moved, with the value `v`. -/
def Part.moved (p : Part) (b : Nat) (v : Byte) : Part := { p with bytes := (b, v) :: p.bytes }

/-- Byte `b` of a unit of `n` bytes may move. -/
def Part.mayMove (p : Part) (n b : Nat) : Bool := decide (b < n) && (p.bytes.lookup b).isNone

/-- Byte `b` of the value of a beat: `v[8b+7:8b]` (R63). -/
def byteOf (v : Word) (b : Nat) : Byte := v.extractLsb' (8 * b) 8

/-- The data register read when receive beat `k` begins, once (R66, R81). -/
def Spi.beginRx (x : Spi) (k : Nat) : Spi := if x.dmaRx.flight.any fun p => p.beat == k then x else x.drRead

/-- A transmit beat, or what is left of it: `DRWrite(i, zext_32(MemRead(src_k, size/8)))` (R81). -/
def txBeat (i : Idx) (x : Spi) (g : DmaCfg) (base : Word) (k : Nat) (s : State) : State :=
  s.put i { x.drWrite (memFetch s.mem (x.dmaTx.part k 0).bytes (beatAddr base g.srcInc k g.size) (g.size / 8) 0) with
    dmaTx := x.dmaTx.beatDone k }

/-- A receive beat, or what is left of it: `MemWrite(dst_k, size/8, DRRead(i))` (R81). -/
def rxBeat (i : Idx) (x : Spi) (g : DmaCfg) (base : Word) (k : Nat) (s : State) : State :=
  let p := x.dmaRx.part k x.ser.drIn
  { s.put i { x.beginRx k with dmaRx := x.dmaRx.beatDone k } with
    mem := memStore s.mem p.bytes (beatAddr base g.dstInc k g.size) (g.size / 8) 0 p.data }

/-- Byte `b` of transmit beat `k` is read, the rest later (R69). -/
def txByte (i : Idx) (x : Spi) (g : DmaCfg) (base : Word) (k b : Nat) (s : State) : State :=
  let v := readCell s.mem (beatAddr base g.srcInc k g.size + BitVec.ofNat 32 b).toNat
  s.put i { x with dmaTx := x.dmaTx.withPart ((x.dmaTx.part k 0).moved b v) }

/-- Byte `b` of receive beat `k` is stored, the rest later (R69). -/
def rxByte (i : Idx) (x : Spi) (g : DmaCfg) (base : Word) (k b : Nat) (s : State) : State :=
  let p := x.dmaRx.part k x.ser.drIn
  { s.put i { x.beginRx k with dmaRx := x.dmaRx.withPart (p.moved b (byteOf p.data b)) } with
    mem := writeCell s.mem (beatAddr base g.dstInc k g.size + BitVec.ofNat 32 b).toNat (byteOf p.data b) }

/-- A move of beat `k` of a channel. The peripheral side is the data register, so the other side is an address of
host memory; `allowed` is what a part of the beat needs beside the channel's readiness. -/
def beatMove (c : Channel) (side : DmaCfg → Endpoint) (k : Nat) (data : Word) (s : State) (allowed : DmaCfg → Part → Bool)
    (body : DmaCfg → Word → State) : Host.Outcome State Fault Refusal :=
  match c.cfg with
  | none => .refused .beatNotOffered
  | some g =>
    match side g with
    | .dr _ => .refused .beatNotOffered
    | .mem base =>
      if c.mayBeat s.dmaEngineEn g k && allowed g (c.part k data) then .next (body g base) else .refused .beatNotOffered

/-- Beat `k` of a channel, or what is left of it (R81). -/
def beat (i : Idx) (d : Dir) (k : Nat) (x : Spi) (s : State) : Host.Outcome State Fault Refusal :=
  match d with
  | .tx => beatMove x.dmaTx DmaCfg.src k 0 s (fun _ _ => true) fun g base => txBeat i x g base k s
  | .rx => beatMove x.dmaRx DmaCfg.dst k x.ser.drIn s (fun _ _ => true) fun g base => rxBeat i x g base k s

/-- Byte `b` of beat `k` of a channel (R69). -/
def beatByte (i : Idx) (d : Dir) (k b : Nat) (x : Spi) (s : State) : Host.Outcome State Fault Refusal :=
  match d with
  | .tx => beatMove x.dmaTx DmaCfg.src k 0 s (fun g p => p.mayMove (g.size / 8) b) fun g base => txByte i x g base k b s
  | .rx =>
    beatMove x.dmaRx DmaCfg.dst k x.ser.drIn s (fun g p => p.mayMove (g.size / 8) b) fun g base => rxByte i x g base k b s

/-- A move of a channel re-armed while enabled: "what the DMA agent does ... is not in the document"
(70_reset_and_hazards.md R313, U7), so any value, and any address on the memory side (log 14). -/
def stray (i : Idx) (d : Dir) (a v : Word) (x : Spi) (s : State) : Host.Outcome State Fault Refusal :=
  match d with
  | .tx =>
    if s.dmaEngineEn && x.dmaTx.en && x.dmaTx.stale then .next (s.put i (x.drWrite v))
    else .refused .beatNotOffered
  | .rx =>
    if s.dmaEngineEn && x.dmaRx.en && x.dmaRx.stale then
      .next { s.put i x.drRead with mem := writeCell s.mem a.toNat (v.setWidth 8) }
    else .refused .beatNotOffered

/-- The serial hardware's new inputs, configure answers kept (R52, R53). -/
def Serial.drive (e : Serial) (raw : BitVec 5) (rfne tfnf busy : Bool) (dr : Word) : Serial :=
  { e with raw := raw, srRfne := rfne, srTfnf := tfnf, srBusy := busy, drIn := dr }

/-- One environment move. -/
def applyEnv (e : EnvMove) (s : State) : Host.Outcome State Fault Refusal :=
  match e with
  | .serial i raw rfne tfnf busy dr =>
    match s.spi? i with
    | none => .refused .noSuchInstance
    | some x => .next (s.put i { x with ser := x.ser.drive raw rfne tfnf busy dr })
  | .configAnswer i tx rx =>
    match s.spi? i with
    | none => .refused .noSuchInstance
    | some x => .next (s.put i { x with ser := { x.ser with txCfgOk := tx, rxCfgOk := rx } })
  | .dmaBeat i d k =>
    match s.spi? i with
    | none => .refused .noSuchInstance
    | some x => beat i d k x s
  | .dmaByte i d k b =>
    match s.spi? i with
    | none => .refused .noSuchInstance
    | some x => beatByte i d k b x s
  | .dmaStray i d a v =>
    match s.spi? i with
    | none => .refused .noSuchInstance
    | some x => stray i d a v x s
  | .busWrite a b => .next { s with mem := writeCell s.mem a.toNat b }

end Sys2Proof.Machine
end

