-- ==== Sys2Proof/Machine/Take.lean ====
section
/-! DEFINITION. How a presented frame is taken, and what happens during a spin-wait. The step calls these
by the context and the head of the inputs. -/

namespace Sys2Proof.Machine

/-- A frame on the command port: the decoded operation, or the answer to a frame with no row: malformed
(30_encoding.md R109), another power state (40_lifecycle.md R128), another control code (41_control.md
R164). -/
def takeCommand (f : Frame) (s : State) : Host.Outcome State Fault Refusal :=
  match decode .command f with
  | .ok x => exec x s
  | .error (.powerState i _) => answerPowerState i s
  | .error (.controlCode i _) => answerControlCode i s
  | .error .zeroField => .next (s.reply .errorUnsupported)
  | .error (.reservedOp _) => .next (s.reply .errorUnsupported)

/-- A frame on the stimulus port; one that is no stimulus is refused (30_encoding.md R91, R92, log 9). -/
def takeStimulus (f : Frame) (s : State) : Host.Outcome State Fault Refusal :=
  match decode .stimulus f with
  | .ok x => exec x s
  | .error _ => .refused .malformedStimulus

/-- The first environment move among the inputs, and the inputs without it: during a spin-wait "only the
environment moves" and presented frames wait (43_interrupt_pump.md R216, log 10). -/
def firstEnv : List Input → Option (EnvMove × List Input)
  | [] => none
  | .env e :: rest => some (e, rest)
  | .command f :: rest => (firstEnv rest).map fun p => (p.1, .command f :: p.2)
  | .stimulus f :: rest => (firstEnv rest).map fun p => (p.1, .stimulus f :: p.2)
  | .resume :: rest => (firstEnv rest).map fun p => (p.1, .resume :: p.2)

/-- The environment moves next. -/
def envIsNext : List Input → Bool
  | [] => false
  | .env _ :: _ => true
  | .command _ :: _ => false
  | .stimulus _ :: _ => false
  | .resume :: _ => false

/-- The inputs after phase B, whose turn may have been said among them. -/
def afterResume : List Input → List Input
  | [] => []
  | .resume :: rest => rest
  | .env e :: rest => .env e :: rest
  | .command f :: rest => .command f :: rest
  | .stimulus f :: rest => .stimulus f :: rest

/-- A step during a spin-wait of instance `i`. Phase B is enabled when the hardware busy flag is clear, and "any
enabled step may be chosen next" (92_eei_decisions.md D37): an environment move that stands first among the inputs
comes before it. While the flag is set the environment's first move happens, else the wait goes on (R216, R319,
log 10). -/
def waitStep (i : Idx) (k : Cont) (s : State) : Host.Outcome State Fault Refusal :=
  match s.spi? i with
  | none => .next s
  | some x =>
    if x.ser.srBusy || envIsNext s.inputs then
      match firstEnv s.inputs with
      | none => .next s
      | some (e, rest) => applyEnv e { s with inputs := rest }
    else .next (phaseB i k x { s with inputs := afterResume s.inputs })

/-- A step in FOREGROUND: the next input is taken; with none presented nothing happens (R291: "the engine
does nothing until the host presents a frame"), and the turn of a handler that does not wait passes. -/
def foregroundStep (s : State) : Host.Outcome State Fault Refusal :=
  match s.inputs with
  | [] => .next s
  | .command f :: rest => takeCommand f { s with inputs := rest }
  | .stimulus f :: rest => takeStimulus f { s with inputs := rest }
  | .env e :: rest => applyEnv e { s with inputs := rest }
  | .resume :: rest => .next { s with inputs := rest }

/-- The input that presents a frame on a port (30_encoding.md R90). -/
def Input.present : Port → Frame → Input
  | .command, f => .command f
  | .stimulus, f => .stimulus f

/-- The frame of a table word put first among the inputs, in FOREGROUND (log 6). -/
def State.presentFirst (s : State) (nbits w : Nat) : State :=
  { s with
    ctx := .foreground
    inputs := .present (tableFrame nbits w).port (tableFrame nbits w) :: s.inputs }

end Sys2Proof.Machine
end

