-- ==== Sys2Proof/Machine/Step.lean ====
section
/-! DEFINITION. One step of the machine: by the execution context, which "selects which agent may step"
(10_state.md R34, R35). -/

namespace Sys2Proof.Machine

/-- One step. -/
def step (s : State) : Host.Outcome State Fault Refusal :=
  match s.ctx with
  | .foreground => foregroundStep s
  | .isrWait i k => waitStep i k s

/-- `s` with the table word `w` presented so that the next step takes it (log 6). -/
def State.withFetchWord (s : State) (nbits w : Nat) : State := s.presentFirst nbits w

end Sys2Proof.Machine
end

