-- ==== Sys2Proof/Safety.lean ====
section
/-! DEFINITION. The terms claims are stated in: when a host operation can be taken, and the invariant of
the machine (10_state.md section 11, R23, R49; 60_exceptions.md R265). -/

namespace Sys2Proof.Machine

/-- In FOREGROUND, and instance `i` of `Inst` is in state `x` (R34, R91). -/
def Ready (s : State) (i : Idx) (x : Spi) : Prop := s.ctx = .foreground ∧ s.spi? i = some x

/-- "If `st[i][0] = 0` then `st[i] = 0`, and if `st[i][1] = 1` then `st[i][0] = 1`" (R56). -/
def Runtime.lifecycleOk (r : Runtime) : Bool := (r.initialized || r.st == 0) && (!r.powered || r.initialized)

/-- The mode word's fields hold legal values (R23). Width 0 is the reset value, never under CONFIGURED. -/
def Runtime.modeLegal (d : Desc) (r : Runtime) : Bool :=
  decide (r.role.toNat ≤ 2) && !ffFails r.ff && (r.bits == 0 || !bitsFail d r.bits) && r.order == 0

/-- "CONFIGURED implies mode selection succeeded" (R22): the mode word, the bank, the chip-select, the data
frame size and the two framing flags are those of a mode select that passed its checks (R144, R149, R152,
R154, R155). -/
def Spi.configuredOk (x : Spi) (slaveNo : Fin 4) : Bool :=
  !x.run.configured ||
    (((x.run.role == roleMaster && !masterBankFails x.desc && !ssFails x.desc slaveNo x.run.ssm && x.run.sss == 0) ||
        (x.run.role == roleSlave && !slaveBankFails x.desc && x.run.ssm == 0)) &&
      !bitsFail x.desc x.run.bits && x.hw.dfs == x.run.bits && x.hw.spiStd && x.hw.ssSwStart)

/-- "Values 0 (reset only), 1, 2, 4" (R31). -/
def bpuLegal (bpu : Nat) : Bool := bpu == 0 || bpu == 1 || bpu == 2 || bpu == 4

/-- An address of host memory. -/
def Endpoint.isMem : Endpoint → Bool
  | .mem _ => true
  | .dr _ => false

/-- A channel config as R49 and 20_memory.md R81 have it: size 8, 16 or 32, 1 to 1023 beats, the peripheral
side `DR(i)` with policy FIXED, the other side in memory. -/
def DmaCfg.ok (i : Idx) (d : Dir) (g : DmaCfg) : Bool :=
  (g.size == 8 || g.size == 16 || g.size == 32) && decide (1 ≤ g.beats) && decide (g.beats ≤ Config.dmaMaxBeats) &&
    match d with
    | .tx => g.dst == .dr i && g.dstInc == .fixed && g.src.isMem
    | .rx => g.src == .dr i && g.srcInc == .fixed && g.dst.isMem

/-- What has moved of a beat: a beat of the config that is not performed yet, no byte of the unit twice. -/
def Part.ok (g : DmaCfg) (done : List Nat) (p : Part) : Bool :=
  decide (p.beat < g.beats) && !done.contains p.beat && decide (p.bytes.map Prod.fst).Nodup &&
    p.bytes.all fun b => decide (b.1 < g.size / 8)

/-- The beats of an enabled channel: each performed at most once, each one of the config's, and each in the middle of
at most once (20_memory.md R81). -/
def Channel.beatsOk (g : DmaCfg) (c : Channel) : Bool :=
  decide c.done.Nodup && c.done.all (fun k => decide (k < g.beats)) && decide (c.flight.map Part.beat).Nodup &&
    c.flight.all (Part.ok g c.done)

/-- A channel: an enabled one is configured, on an enabled engine, and its beats are as above. -/
def Channel.ok (i : Idx) (d : Dir) (engineEn : Bool) (c : Channel) : Bool :=
  match c.cfg with
  | none => !c.en
  | some g => g.ok i d && (!c.en || engineEn) && (!c.en || c.stale || c.beatsOk g)

/-- The invariant of one instance. -/
def Spi.ok (i : Idx) (bpu : Nat) (slaveNo : Fin 4) (engineEn : Bool) (x : Spi) : Bool :=
  x.run.lifecycleOk && !x.run.modeFault && x.run.modeLegal x.desc && x.configuredOk slaveNo &&
    (!x.run.configured || bpu != 0) && x.dmaTx.ok i .tx engineEn && x.dmaRx.ok i .rx engineEn

/-- The instance in a spin-wait exists (R34). -/
def State.ctxOk (s : State) : Bool :=
  match s.ctx with
  | .foreground => true
  | .isrWait i _ => (s.spi? i).isSome

/-- The invariant: host memory canonical, `bpu` legal (R31), and 1, 2 or 4 once any instance is CONFIGURED
(R57), distinct instance indices (00_scope.md R9), every instance as above. -/
def State.inv (s : State) : Bool :=
  Memory.wf s.mem && bpuLegal s.bpu && s.ctxOk && decide s.insts.Nodup &&
    s.spis.all fun p => p.2.ok p.1 s.bpu s.slaveNo s.dmaEngineEn

/-- A property every step keeps. -/
def KeptByStep (P : State → Prop) : Prop := ∀ s t : State, P s → step s = .next t → P t

end Sys2Proof.Machine
end

