-- ==== Sys2Proof/Certificates/Slice0/Obligations.lean ====
section
/-! DEFINITION. The statements for the provers. Wherever one writes a code, an event mask, a bit position, an encoding or a
reset value as a number, that number is the spec's own decision (92_eei_decisions.md D2 to D7, D15, D33; log 25). In every
statement `Ready s i x` says that `s` is in FOREGROUND and instance `i` is in state `x`. -/

open Sys2Proof Sys2Proof.Machine

/-! ### Reset and the invariant -/

/-- The state after reset, every value the table of 10_state.md R58 gives (the spec's decision D33, log 25). -/
def Obligations.ResetStateAsTabulated : Prop :=
  (∀ i x, State.reset.spi? i = some x →
    x.run = { st := 0, mode := 0, busy := false, dataLost := false, modeFault := false, cb := 0 } ∧
    x.xfer = { txBuf := 0, rxBuf := 0, num := 0, txCnt := 0, rxCnt := 0, defVal := 0 } ∧
    x.hw = { hwEn := false, tmod := .txRx, imr := 0, frf := .motorolaSpi, cpol := false, cpha := false, dfs := 0,
             spiStd := false, ssSwStart := false, ssActive := #v[false, false, false, false], baudReq := 0,
             clkEn := false, pinsCfg := false, irqEn := false } ∧
    x.dmaTx.cfg = none ∧ x.dmaTx.en = false ∧ x.dmaRx.cfg = none ∧ x.dmaRx.en = false ∧ x.drlog = []) ∧
  State.reset.bpu = 0 ∧ State.reset.ctx = .foreground ∧ State.reset.dmaInit = false ∧
  State.reset.dmaEngineEn = false ∧ State.reset.xlog = [] ∧ State.reset.evlog = []

/-- The reset state meets the invariant that every step keeps. -/
def Obligations.ResetMeetsInvariant : Prop := State.reset.inv = true

/-- Every step keeps the invariant (R22, R23, R31, R34, R49, R56, R57, R265; canonical memory). -/
def Obligations.EveryStepKeepsInvariant : Prop := KeptByStep fun s => s.inv = true

/-- The numbers of the status codes and of the two events (decisions D3 and D4, log 25); the statements that name a code mean
this number. -/
def Obligations.StatusAndEventNumbers : Prop :=
  (∀ c : Status, c.word.toInt = match c with
    | .ok => 0
    | .error => -1
    | .errorBusy => -2
    | .errorUnsupported => -4
    | .errorParameter => -5
    | .modeError => -6
    | .frameFormatError => -7
    | .dataBitsError => -8
    | .bitOrderError => -9
    | .ssModeError => -10) ∧ evTransferComplete = 1 ∧ evDataLost = 2

/-! ### Encoding -/

/-- Decoding the encoding of an instruction gives it back, on its own port, with every operand at every value
the frame can carry. -/
def Obligations.DecodeOfEncodeIsIdentity : Prop :=
  ∀ x : Instr, x.kindOk = true → decode x.port (encode x) = .ok x

/-- The decoder follows opcode_table.json: a frame whose decode word a row accepts decodes, on the row's port,
to an instruction of that row and of the instance in `INST`; and every frame that decodes is accepted by the row
of its instruction, but for error events whose kind is not 1 (R94). The numbers are decision D2 (log 25). -/
def Obligations.DecoderFollowsOpcodeTable : Prop :=
  (∀ r ∈ opcodeTable, ∀ f : Frame, r.accepts f.decodeWord = true →
    ∃ x, decode r.port f = .ok x ∧ x.mnemonic = r.mnemonic ∧ x.idx = f.inst) ∧
  (∀ (p : Port) (f : Frame) (x : Instr), decode p f = .ok x →
    (∀ i k, x = .dmaTxError i k ∨ x = .dmaRxError i k → k = 1) →
    ∃ r ∈ opcodeTable, r.mnemonic = x.mnemonic ∧ r.port = p ∧ r.accepts f.decodeWord = true)

/-- A few of the words of 95_test_vectors.md section 2.1 decode to what they stand for. -/
def Obligations.SampleWordsDecode : Prop :=
  decodeTableWord 64 0x0000110000000001 = some (.initializeOp 0 0x1100) ∧
  decodeTableWord 64 0x0000000200000003 = some (.powerFull 0) ∧
  decodeTableWord 64 0x0010C20100000004 = some (.ctlModeMaster 0 2 12 0 2 0) ∧
  decodeTableWord 64 0x0021040200000104 = some (.ctlModeSlave 1 4 16 0 1) ∧
  decodeTableWord 64 0x0000400000000106 = some (.receive 1 0x4000 0) ∧
  decodeTableWord 64 0x0000000000000209 = some (.getStatus 2) ∧
  decodeTableWord 64 0x0000000100000212 = some (.dmaRxError 2 1) ∧
  decodeTableWord 64 0x0000000700000003 = none

/-! ### The step -/

/-- In FOREGROUND, a step whose next input presents a frame that decodes to `x` is `exec x` on the state without
that input (R16, R90). -/
def Obligations.StepRunsDecodedInstruction : Prop :=
  ∀ (s : State) (p : Port) (f : Frame) (rest : List Input) (x : Instr),
    s.ctx = .foreground → s.inputs = Input.present p f :: rest → decode p f = .ok x →
    step s = exec x { s with inputs := rest }

/-- A malformed command frame answers ERROR_UNSUPPORTED (-4) and changes nothing else: a non-zero ZERO field, an
instance outside `Inst`, or an OP that is not 0x01 to 0x09 (30_encoding.md section 5; decision D8, log 25). -/
def Obligations.MalformedCommandFrameUnsupported : Prop :=
  ∀ (s : State) (f : Frame) (rest : List Input), s.ctx = .foreground → s.inputs = .command f :: rest →
    (f.cmd.extractLsb' 16 16 ≠ 0 ∨ f.cmd.extractLsb' 8 8 ∉ s.insts ∨ f.cmd.extractLsb' 0 8 = 0 ∨
      9 < (f.cmd.extractLsb' 0 8).toNat) →
    step s = .next { s with inputs := rest, ret := 0xFFFFFFFC }

/-- Well-formed frames that no row lists: POWERCONTROL with another state number answers ERROR_UNSUPPORTED, and
CONTROL with another code does so after the POWERED and busy tests (40_lifecycle.md section 3, 41_control.md
section 6; decisions D7 and D8, log 16, log 25). -/
def Obligations.UnlistedFramesUnsupported : Prop :=
  ∀ (s : State) (f : Frame) (rest : List Input) (x : Spi), Ready s (f.cmd.extractLsb' 8 8) x →
    s.inputs = .command f :: rest → f.cmd.extractLsb' 16 16 = 0 →
    (f.cmd.extractLsb' 0 8 = 3 → f.a0 ≠ 0 → f.a0 ≠ 1 → f.a0 ≠ 2 →
      step s = .next { s with inputs := rest, ret := 0xFFFFFFFC }) ∧
    (f.cmd.extractLsb' 0 8 = 4 →
      f.a0.extractLsb' 0 8 ∉ ([0x00, 0x01, 0x02, 0x10, 0x11, 0x12, 0x13, 0x14] : List (BitVec 8)) →
      step s = .next { s with
        inputs := rest
        ret := if x.run.st.getLsbD 1 = false then 0xFFFFFFFF else if x.run.busy then 0xFFFFFFFE else 0xFFFFFFFC })

/-- In ISR_WAIT of an instance whose busy flag is set, no frame is taken: without an environment move among the
inputs the state stays, and the first environment move, if any, is what happens, the frames before it waiting. Whether the
flag is set or clear, an environment move that is next among the inputs happens before phase B (43_interrupt_pump.md section
5; decisions D13 and D37; that the order is that of the inputs is the model's, log 10). -/
def Obligations.SpinWaitTakesOnlyEnvironmentMoves : Prop :=
  ∀ (s : State) (i : Idx) (k : Cont) (x : Spi), s.ctx = .isrWait i k → s.spi? i = some x →
    (x.ser.srBusy = true →
      ((∀ e, Input.env e ∉ s.inputs) → step s = .next s) ∧
      (∀ pre e post, (∀ e', Input.env e' ∉ pre) → s.inputs = pre ++ .env e :: post →
        step s = applyEnv e { s with inputs := pre ++ post })) ∧
    (∀ e rest, s.inputs = .env e :: rest → step s = applyEnv e { s with inputs := rest })

/-- Where an instruction does not run: in ISR_WAIT none is taken; in FOREGROUND an operation on an instance outside
`Inst` answers ERROR_UNSUPPORTED and changes nothing else (30_encoding.md section 5; decision D8, log 17), and a stimulus
of one is refused, which is the model's choice (log 9; 60_exceptions.md section 5 for the first clause, log 8). -/
def Obligations.OperationsNeedForegroundAndInstance : Prop :=
  ∀ (x : Instr) (s : State),
    (∀ i k, s.ctx = .isrWait i k → exec x s = .refused .notForeground) ∧
    (s.ctx = .foreground → x.idx ∉ s.insts → x.port = .command → exec x s = .next { s with ret := 0xFFFFFFFC }) ∧
    (s.ctx = .foreground → x.idx ∉ s.insts → x.port = .stimulus → exec x s = .refused .noSuchInstance)

/-- Every step leaves the launch parameters, the slave number, the instance set and the Instance Descriptors as they
are: "Immutable after board configuration" (R9, R20, R32; that nothing
writes the slave number is decision D21). -/
def Obligations.StepKeepsLaunchParameters : Prop :=
  ∀ s t : State, step s = .next t →
    t.params = s.params ∧ t.slaveNo = s.slaveNo ∧ t.insts = s.insts ∧
    ∀ i x y, s.spi? i = some x → t.spi? i = some y → y.desc = x.desc

/-- The output logs only grow, at the end: every step appends to `xlog`, `evlog` and each `drlog` (R50, R51). -/
def Obligations.StepOnlyAppendsToLogs : Prop :=
  ∀ s t : State, step s = .next t →
    s.xlog <+: t.xlog ∧ s.evlog <+: t.evlog ∧
    ∀ i x y, s.spi? i = some x → t.spi? i = some y → x.drlog <+: y.drlog

/-! ### Lifecycle -/

/-- INITIALIZE on an INITIALIZED instance succeeds and changes nothing (R120). -/
def Obligations.InitializeIsIdempotent : Prop :=
  ∀ (s : State) (i : Idx) (x : Spi) (cb : Word), Ready s i x → x.run.st.getLsbD 0 = true →
    exec (.initializeOp i cb) s = .next { s with ret := Status.ok.word }

/-- INITIALIZE taking effect, its whole next state (R121; that A0 is the callback and the order of the calls are decision
D35, R122, log 25). -/
def Obligations.InitializeTakesEffect : Prop :=
  ∀ (s : State) (i : Idx) (x : Spi) (cb : Word), Ready s i x → x.run.st.getLsbD 0 = false →
    exec (.initializeOp i cb) s = .next { s with
      xlog := s.xlog ++ .pinConfig i (if x.desc.tag = .ulpMaster then .reducedSet else .fullSet) ::
        (if x.desc.dmaTxBound = true ∨ x.desc.dmaRxBound = true then [.dmaInit] else [])
      dmaInit := s.dmaInit || x.desc.dmaTxBound || x.desc.dmaRxBound
      ret := Status.ok.word
      spis := setSpi s.spis i { x with
        hw := { x.hw with pinsCfg := true }
        xfer := { txBuf := 0, rxBuf := 0, num := 0, txCnt := 0, rxCnt := 0, defVal := 0 }
        run := { x.run with cb := cb, st := x.run.st ||| 1 } } }

/-- UNINITIALIZE zeroes the Runtime Info and nothing else, in every state (R123; that it always answers OK is decision D34). -/
def Obligations.UninitializeZeroesRuntimeOnly : Prop :=
  ∀ (s : State) (i : Idx) (x : Spi), Ready s i x →
    exec (.uninitializeOp i) s = .next { s with
      ret := 0
      spis := setSpi s.spis i { x with
        run := { st := 0, mode := 0, busy := false, dataLost := false, modeFault := false, cb := 0 } } }

/-- POWER_OFF, its whole next state (R125). -/
def Obligations.PowerOffAlwaysSucceeds : Prop :=
  ∀ (s : State) (i : Idx) (x : Spi), Ready s i x →
    exec (.powerOff i) s = .next { s with
      ret := Status.ok.word
      spis := setSpi s.spis i { x with
        hw := { x.hw with irqEn := false, hwEn := false }
        xfer := { txBuf := 0, rxBuf := 0, num := 0, txCnt := 0, rxCnt := 0, defVal := 0 }
        run := { x.run with busy := false, dataLost := false, modeFault := false, st := x.run.st &&& 0b101 } } }

/-- POWER_LOW answers ERROR_UNSUPPORTED and changes nothing (R126). -/
def Obligations.PowerLowUnsupported : Prop :=
  ∀ (s : State) (i : Idx) (x : Spi), Ready s i x → exec (.powerLow i) s = .next { s with ret := Status.errorUnsupported.word }

/-- POWER_FULL: ERROR if not INITIALIZED, no-op success if POWERED, else its whole next state (R127). -/
def Obligations.PowerFullByLifecycleState : Prop :=
  ∀ (s : State) (i : Idx) (x : Spi), Ready s i x →
    (x.run.st.getLsbD 0 = false → exec (.powerFull i) s = .next { s with ret := Status.error.word }) ∧
    (x.run.st.getLsbD 0 = true → x.run.st.getLsbD 1 = true → exec (.powerFull i) s = .next { s with ret := Status.ok.word }) ∧
    (x.run.st.getLsbD 0 = true → x.run.st.getLsbD 1 = false → exec (.powerFull i) s = .next { s with
      xlog := s.xlog ++ [.clockEnable i x.desc.tag]
      ret := Status.ok.word
      spis := setSpi s.spis i { x with
        hw := { x.hw with clkEn := true, irqEn := true }
        run := { x.run with busy := false, dataLost := false, modeFault := false, st := x.run.st ||| 0b010 } } })

/-! ### Control -/

/-- The entry checks of every control code: ERROR when not POWERED, abort among them; ERROR_BUSY when busy, but for
abort; no state change (R140). -/
def Obligations.ControlEntryChecks : Prop :=
  ∀ (s : State) (i : Idx) (x : Spi) (ff : BitVec 4) (bits : BitVec 6) (order sss : BitVec 1) (ssm : BitVec 2)
    (v : Word), Ready s i x →
    (x.run.st.getLsbD 1 = false →
      ∀ c ∈ ([.ctlModeInactive i, .ctlModeMaster i ff bits order ssm v, .ctlModeSlave i ff bits order sss,
        .ctlSetBusSpeed i v, .ctlGetBusSpeed i, .ctlSetDefaultTxValue i v, .ctlControlSs i v,
        .ctlAbortTransfer i] : List Instr), exec c s = .next { s with ret := 0xFFFFFFFF }) ∧
    (x.run.st.getLsbD 1 = true → x.run.busy = true →
      ∀ c ∈ ([.ctlModeInactive i, .ctlModeMaster i ff bits order ssm v, .ctlModeSlave i ff bits order sss,
        .ctlSetBusSpeed i v, .ctlGetBusSpeed i, .ctlSetDefaultTxValue i v, .ctlControlSs i v] : List Instr),
        exec c s = .next { s with ret := 0xFFFFFFFE })

/-- CTL_ABORT_TRANSFER on a POWERED instance, busy or not: clears busy, zeroes the descriptor, nothing else (R141). -/
def Obligations.AbortClearsBusyAndDescriptor : Prop :=
  ∀ (s : State) (i : Idx) (x : Spi), Ready s i x → x.run.st.getLsbD 1 = true →
    exec (.ctlAbortTransfer i) s = .next { s with
      ret := Status.ok.word
      spis := setSpi s.spis i { x with
        xfer := { txBuf := 0, rxBuf := 0, num := 0, txCnt := 0, rxCnt := 0, defVal := 0 }
        run := { x.run with busy := false } } }

/-- CTL_MODE_INACTIVE: role INACTIVE, CONFIGURED cleared, nothing else (41_control.md section 2; that it clears the bit
is decision D24). -/
def Obligations.ModeInactiveClearsConfigured : Prop :=
  ∀ (s : State) (i : Idx) (x : Spi), Ready s i x → x.run.st.getLsbD 1 = true → x.run.busy = false →
    exec (.ctlModeInactive i) s = .next { s with
      ret := 0
      spis := setSpi s.spis i { x with
        run := { x.run with st := x.run.st &&& 0b011, mode := x.run.mode &&& 0x3FFF00 } } }

/-- CTL_MODE_MASTER that fails a check answers the code of the first failing one of V1 to V5 and changes nothing else
(41_control.md section 2; the order is decision D23). -/
def Obligations.ModeMasterFirstFailingCheck : Prop :=
  ∀ (s : State) (i : Idx) (x : Spi) (ff : BitVec 4) (bits : BitVec 6) (order : BitVec 1) (ssm : BitVec 2) (v : Word),
    Ready s i x → x.run.st.getLsbD 1 = true → x.run.busy = false →
    (x.desc.bank = .slaveOnly → exec (.ctlModeMaster i ff bits order ssm v) s = .next { s with ret := 0xFFFFFFFA }) ∧
    (x.desc.bank = .masterOnly →
      (ssm ≠ 0 ∧ x.desc.cs[s.slaveNo] = none →
        exec (.ctlModeMaster i ff bits order ssm v) s = .next { s with ret := 0xFFFFFFF6 }) ∧
      (ssm = 0 ∨ x.desc.cs[s.slaveNo] ≠ none →
        (5 < ff.toNat → exec (.ctlModeMaster i ff bits order ssm v) s = .next { s with ret := 0xFFFFFFF9 }) ∧
        (ff.toNat ≤ 5 →
          (bits.toNat < 4 ∨ (if x.desc.wide then 32 else 16) < bits.toNat →
            exec (.ctlModeMaster i ff bits order ssm v) s = .next { s with ret := 0xFFFFFFF8 }) ∧
          (4 ≤ bits.toNat → bits.toNat ≤ (if x.desc.wide then 32 else 16) → order = 1 →
            exec (.ctlModeMaster i ff bits order ssm v) s = .next { s with ret := 0xFFFFFFF7 }))))

/-- CTL_MODE_MASTER that passes every check, its whole next state: mode word, CONFIGURED, frame format, data width,
framing flags, all sources masked, bus speed, unit size (R146, R154, R155, R157; the mode word is
decisions D5 and D24, the formats D39, the recorded speed D19). -/
def Obligations.ModeMasterCommits : Prop :=
  ∀ (s : State) (i : Idx) (x : Spi) (ff : BitVec 4) (bits : BitVec 6) (ssm : BitVec 2) (v : Word),
    Ready s i x → x.run.st.getLsbD 1 = true → x.run.busy = false → x.desc.bank = .masterOnly →
    (ssm = 0 ∨ x.desc.cs[s.slaveNo] ≠ none) → ff.toNat ≤ 5 → 4 ≤ bits.toNat →
    bits.toNat ≤ (if x.desc.wide then 32 else 16) →
    exec (.ctlModeMaster i ff bits 0 ssm v) s = .next { s with
      ret := 0
      bpu := if bits.toNat ≤ 7 then 1 else if bits.toNat ≤ 15 then 2 else 4
      spis := setSpi s.spis i { x with
        run := { x.run with
          st := x.run.st ||| 0b100
          mode := 0x01 ||| ff.setWidth 22 <<< 8 ||| bits.setWidth 22 <<< 12 ||| ssm.setWidth 22 <<< 19 }
        hw := { x.hw with
          frf := if ff = 4 then .tiSsi else if ff = 5 then .microwire else .motorolaSpi
          cpol := if ff.toNat ≤ 3 then ff.getLsbD 1 else x.hw.cpol
          cpha := if ff.toNat ≤ 3 then ff.getLsbD 0 else x.hw.cpha
          dfs := bits, spiStd := true, ssSwStart := true, imr := 0, baudReq := v } } }

/-- CTL_MODE_SLAVE that fails a check answers the code of the first failing one of V1, V3, V4, V5 and changes nothing
else (41_control.md section 2; the order is decision D23). -/
def Obligations.ModeSlaveFirstFailingCheck : Prop :=
  ∀ (s : State) (i : Idx) (x : Spi) (ff : BitVec 4) (bits : BitVec 6) (order sss : BitVec 1),
    Ready s i x → x.run.st.getLsbD 1 = true → x.run.busy = false →
    (x.desc.bank = .masterOnly → exec (.ctlModeSlave i ff bits order sss) s = .next { s with ret := 0xFFFFFFFA }) ∧
    (x.desc.bank = .slaveOnly →
      (5 < ff.toNat → exec (.ctlModeSlave i ff bits order sss) s = .next { s with ret := 0xFFFFFFF9 }) ∧
      (ff.toNat ≤ 5 →
        (bits.toNat < 4 ∨ (if x.desc.wide then 32 else 16) < bits.toNat →
          exec (.ctlModeSlave i ff bits order sss) s = .next { s with ret := 0xFFFFFFF8 }) ∧
        (4 ≤ bits.toNat → bits.toNat ≤ (if x.desc.wide then 32 else 16) → order = 1 →
          exec (.ctlModeSlave i ff bits order sss) s = .next { s with ret := 0xFFFFFFF7 })))

/-- CTL_MODE_SLAVE that passes every check, its whole next state; the bus speed is not written (R147, R154, R155; the
mode word is decisions D5 and D24, the unchecked SSS D25, the formats D39). -/
def Obligations.ModeSlaveCommits : Prop :=
  ∀ (s : State) (i : Idx) (x : Spi) (ff : BitVec 4) (bits : BitVec 6) (sss : BitVec 1),
    Ready s i x → x.run.st.getLsbD 1 = true → x.run.busy = false → x.desc.bank = .slaveOnly →
    ff.toNat ≤ 5 → 4 ≤ bits.toNat → bits.toNat ≤ (if x.desc.wide then 32 else 16) →
    exec (.ctlModeSlave i ff bits 0 sss) s = .next { s with
      ret := 0
      bpu := if bits.toNat ≤ 7 then 1 else if bits.toNat ≤ 15 then 2 else 4
      spis := setSpi s.spis i { x with
        run := { x.run with
          st := x.run.st ||| 0b100
          mode := 0x02 ||| ff.setWidth 22 <<< 8 ||| bits.setWidth 22 <<< 12 ||| sss.setWidth 22 <<< 21 }
        hw := { x.hw with
          frf := if ff = 4 then .tiSsi else if ff = 5 then .microwire else .motorolaSpi
          cpol := if ff.toNat ≤ 3 then ff.getLsbD 1 else x.hw.cpol
          cpha := if ff.toNat ≤ 3 then ff.getLsbD 0 else x.hw.cpha
          dfs := bits, spiStd := true, ssSwStart := true, imr := 0 } } }

/-- The bus-speed and default-value codes on a POWERED instance that is not busy: SET_BUS_SPEED records the request,
GET_BUS_SPEED answers `BAUD_ACTUAL` of it whatever that function is, SET_DEFAULT_TX_VALUE writes the fill value (R158,
R159, R160; D18, D19). -/
def Obligations.BusSpeedAndDefaultValue : Prop :=
  ∀ (s : State) (i : Idx) (x : Spi) (v : Word), Ready s i x → x.run.st.getLsbD 1 = true → x.run.busy = false →
    exec (.ctlSetBusSpeed i v) s =
      .next { s with ret := 0, spis := setSpi s.spis i { x with hw := { x.hw with baudReq := v } } } ∧
    exec (.ctlGetBusSpeed i) s = .next { s with ret := Config.baudActual x.hw.baudReq } ∧
    exec (.ctlSetDefaultTxValue i v) s =
      .next { s with ret := 0, spis := setSpi s.spis i { x with xfer := { x.xfer with defVal := v } } }

/-- CTL_CONTROL_SS on a POWERED instance that is not busy: on a master with the software policy it drives the line of the
slave number, otherwise it answers ERROR and changes nothing else (41_control.md section 5; decision D20). -/
def Obligations.ControlSsDrivesSelectedLine : Prop :=
  ∀ (s : State) (i : Idx) (x : Spi) (v : Word), Ready s i x → x.run.st.getLsbD 1 = true → x.run.busy = false →
    (x.run.mode.extractLsb' 0 8 = 1 ∧ x.run.mode.extractLsb' 19 2 = 1 →
      exec (.ctlControlSs i v) s = .next { s with
        ret := 0
        spis := setSpi s.spis i { x with
          hw := { x.hw with ssActive := x.hw.ssActive.set s.slaveNo (decide (v ≠ 0)) } } }) ∧
    (¬ (x.run.mode.extractLsb' 0 8 = 1 ∧ x.run.mode.extractLsb' 19 2 = 1) →
      exec (.ctlControlSs i v) s = .next { s with ret := 0xFFFFFFFF })

/-! ### Transfer dispatch and queries -/

/-- The preconditions of the three transfer calls, in order, none of them changing state: null pointer or zero count
ERROR_PARAMETER, not CONFIGURED ERROR, busy ERROR_BUSY (R171). -/
def Obligations.TransferPreconditions : Prop :=
  ∀ (s : State) (i : Idx) (x : Spi) (a b n : Word), Ready s i x →
    (a = 0 ∨ n = 0 → exec (.send i a n) s = .next { s with ret := Status.errorParameter.word } ∧
      exec (.receive i a n) s = .next { s with ret := Status.errorParameter.word }) ∧
    (a = 0 ∨ b = 0 ∨ n = 0 → exec (.transfer i a b n) s = .next { s with ret := Status.errorParameter.word }) ∧
    (∀ c ∈ ([.send i a n, .receive i a n, .transfer i a b n] : List Instr), a ≠ 0 → b ≠ 0 → n ≠ 0 →
      (x.run.st.getLsbD 2 = false → exec c s = .next { s with ret := Status.error.word }) ∧
      (x.run.st.getLsbD 2 = true → x.run.busy = true → exec c s = .next { s with ret := Status.errorBusy.word }))

/-- The whole next state of SEND, RECEIVE and TRANSFER accepted on an instance with no DMA channel bound: the triple, the
descriptor with the total, direction, hardware path, and the sources of the direction unmasked (R172 to R176, R186; the product
modulo 2^32 is decision D29, the five mask bits D15). -/
def Obligations.TransferAcceptedInInterruptMode : Prop :=
  ∀ (s : State) (i : Idx) (x : Spi) (a b n : Word), Ready s i x → a ≠ 0 → b ≠ 0 → n ≠ 0 →
    x.run.st.getLsbD 2 = true → x.run.busy = false → x.desc.dmaTxBound = false → x.desc.dmaRxBound = false →
    ∀ c ∈ ([(.send i a n, a, 0, .txOnly, 0b00011), (.receive i a n, 0, a, .rxOnly, 0b11100),
        (.transfer i a b n, a, b, .txRx, 0b11111)] : List (Instr × Word × Word × Tmod × BitVec 5)),
      exec c.1 s = .next { s with
        ret := 0
        spis := setSpi s.spis i { x with
          run := { x.run with busy := true, dataLost := false, modeFault := false }
          xfer := { txBuf := c.2.1, rxBuf := c.2.2.1, num := n * BitVec.ofNat 32 s.bpu, txCnt := 0, rxCnt := 0, defVal := 0 }
          hw := { x.hw with tmod := c.2.2.2.1, hwEn := true, imr := x.hw.imr ||| c.2.2.2.2 } } }

/-- The whole next state of SEND, RECEIVE and TRANSFER accepted on an instance with a DMA channel bound, when every
configure call succeeds: every bound channel configured and enabled, the engine enabled, a kick-start write for a receive
on a master (R175, R178 to R182, R184, R185; the order and the scratch endpoint are decision D30, the kick-start on this path only D42,
`done` is log 13, `stale` log 14, `flight` log 29). -/
def Obligations.TransferAcceptedInDmaMode : Prop :=
  ∀ (s : State) (i : Idx) (x : Spi) (a b n : Word), Ready s i x → a ≠ 0 → b ≠ 0 → n ≠ 0 →
    x.run.st.getLsbD 2 = true → x.run.busy = false → (x.desc.dmaTxBound = true ∨ x.desc.dmaRxBound = true) →
    (x.desc.dmaTxBound = true → x.ser.txCfgOk = true) → (x.desc.dmaRxBound = true → x.ser.rxCfgOk = true) →
    ∀ c ∈ ([(.send i a n, a, 0, .txOnly), (.receive i a n, 0, a, .rxOnly),
        (.transfer i a b n, a, b, .txRx)] : List (Instr × Word × Word × Tmod)),
      ∀ gT gR : DmaCfg,
      gT = { size := 8 * s.bpu, beats := min n.toNat 1023, arb := s.params.dmaArb, dst := .dr i, dstInc := .fixed,
             src := .mem (if c.2.1 = 0 then s.params.scratchAddr else c.2.1),
             srcInc := if c.2.1 = 0 then .fixed else .inc } →
      gR = { size := 8 * s.bpu, beats := min n.toNat 1023, arb := s.params.dmaArb, src := .dr i, srcInc := .fixed,
             dst := .mem (if c.2.2.1 = 0 then s.params.scratchAddr else c.2.2.1),
             dstInc := if c.2.2.1 = 0 then .fixed else .inc } →
      exec c.1 s = .next { s with
        ret := 0
        dmaEngineEn := true
        xlog := s.xlog ++ ((if x.desc.dmaTxBound then [.dmaConfigure i .tx gT] else []) ++
          (if x.desc.dmaRxBound then [.dmaConfigure i .rx gR] else []) ++
          (if x.desc.dmaTxBound then [.dmaEnable i .tx] else []) ++
          (if x.desc.dmaRxBound then [.dmaEnable i .rx] else []) ++ [.dmaEngineEnable])
        spis := setSpi s.spis i { x with
          run := { x.run with busy := true, dataLost := false, modeFault := false }
          xfer := { txBuf := c.2.1, rxBuf := c.2.2.1, num := n * BitVec.ofNat 32 s.bpu, txCnt := 0, rxCnt := 0, defVal := 0 }
          hw := { x.hw with tmod := c.2.2.2, hwEn := true }
          dmaTx := if x.desc.dmaTxBound then { cfg := some gT, en := true, done := [], flight := [], stale := x.dmaTx.en } else x.dmaTx
          dmaRx := if x.desc.dmaRxBound then { cfg := some gR, en := true, done := [], flight := [], stale := x.dmaRx.en } else x.dmaRx
          drlog := x.drlog ++
            (if c.2.2.2 = .rxOnly ∧ x.desc.tag ≠ .slave then [s.params.dummyByte.setWidth 32] else []) } }

/-- A failed DMA configure call: ERROR, busy left set and the acceptance kept; nothing enabled, no kick-start; a transmit
channel configured before the receive call failed keeps its config (R183; transmit first is decision D32; the model's `stale`,
set by that configure call when the channel was still enabled, is log 14, a DESIGN CHOICE). -/
def Obligations.DmaConfigureFailureLeavesBusy : Prop :=
  ∀ (s : State) (i : Idx) (x : Spi) (a b n : Word), Ready s i x → a ≠ 0 → b ≠ 0 → n ≠ 0 →
    x.run.st.getLsbD 2 = true → x.run.busy = false →
    ∀ c ∈ ([(.send i a n, a, 0, .txOnly), (.receive i a n, 0, a, .rxOnly),
        (.transfer i a b n, a, b, .txRx)] : List (Instr × Word × Word × Tmod)),
      ∀ gT gR : DmaCfg,
      gT = { size := 8 * s.bpu, beats := min n.toNat 1023, arb := s.params.dmaArb, dst := .dr i, dstInc := .fixed,
             src := .mem (if c.2.1 = 0 then s.params.scratchAddr else c.2.1),
             srcInc := if c.2.1 = 0 then .fixed else .inc } →
      gR = { size := 8 * s.bpu, beats := min n.toNat 1023, arb := s.params.dmaArb, src := .dr i, srcInc := .fixed,
             dst := .mem (if c.2.2.1 = 0 then s.params.scratchAddr else c.2.2.1),
             dstInc := if c.2.2.1 = 0 then .fixed else .inc } →
      ∀ y : Spi, y = { x with
          run := { x.run with busy := true, dataLost := false, modeFault := false }
          xfer := { txBuf := c.2.1, rxBuf := c.2.2.1, num := n * BitVec.ofNat 32 s.bpu, txCnt := 0, rxCnt := 0, defVal := 0 }
          hw := { x.hw with tmod := c.2.2.2, hwEn := true } } →
      (x.desc.dmaTxBound = true → x.ser.txCfgOk = false →
        exec c.1 s = .next { s with
          ret := 0xFFFFFFFF, xlog := s.xlog ++ [.dmaConfigure i .tx gT], spis := setSpi s.spis i y }) ∧
      (x.desc.dmaTxBound = true → x.ser.txCfgOk = true → x.desc.dmaRxBound = true → x.ser.rxCfgOk = false →
        exec c.1 s = .next { s with
          ret := 0xFFFFFFFF
          xlog := s.xlog ++ [.dmaConfigure i .tx gT, .dmaConfigure i .rx gR]
          spis := setSpi s.spis i { y with dmaTx := { x.dmaTx with cfg := some gT, stale := x.dmaTx.en } } }) ∧
      (x.desc.dmaTxBound = false → x.desc.dmaRxBound = true → x.ser.rxCfgOk = false →
        exec c.1 s = .next { s with
          ret := 0xFFFFFFFF, xlog := s.xlog ++ [.dmaConfigure i .rx gR], spis := setSpi s.spis i y })

/-- GETDATACOUNT answers the receive counter, 0 if not CONFIGURED, and changes nothing else (R190). -/
def Obligations.GetDataCountAnswersReceiveCounter : Prop :=
  ∀ (s : State) (i : Idx) (x : Spi), Ready s i x →
    exec (.getDataCount i) s = .next { s with ret := if x.run.st.getLsbD 2 = true then x.xfer.rxCnt else 0 }

/-- GETSTATUS answers the status triple, busy in bit 0, data_lost in bit 1, mode_fault in bit 2, the rest 0, and changes
nothing else (42_transfer_dispatch.md section 5; the packing is decision D36, log 25). -/
def Obligations.GetStatusPacksTriple : Prop :=
  ∀ (s : State) (i : Idx) (x : Spi), Ready s i x →
    exec (.getStatus i) s = .next { s with
      ret := (if x.run.busy then 1 else 0) + (if x.run.dataLost then 2 else 0) + (if x.run.modeFault then 4 else 0) }

/-! ### The interrupt handler -/

/-- IRQ is taken exactly when the context is FOREGROUND, the instance's line is enabled and an unmasked condition is
pending (43_interrupt_pump.md section 1; decision D43). -/
def Obligations.IrqTakenExactlyWhenEnabled : Prop :=
  ∀ (s : State) (i : Idx), (∃ t, exec (.irq i) s = .next t) ↔
    ∃ x, Ready s i x ∧ x.hw.irqEn = true ∧ x.ser.raw &&& x.hw.imr ≠ 0

/-- Handler step 1: an unmasked overflow or underflow clears the three raw bits, sets data_lost, delivers DATA_LOST, and
nothing else (R203, R214; that masked conditions are tested is decision D11). -/
def Obligations.OverflowClassPreempts : Prop :=
  ∀ (s : State) (i : Idx) (x : Spi), Ready s i x → x.hw.irqEn = true → x.ser.raw &&& x.hw.imr &&& 0b01110 ≠ 0 →
    exec (.irq i) s = .next { s with
      evlog := s.evlog ++ (if x.run.cb = 0 then [] else [⟨i, x.run.cb, 2⟩])
      spis := setSpi s.spis i { x with
        ser := { x.ser with raw := x.ser.raw &&& 0b10001 }, run := { x.run with dataLost := true } } }

/-- Handler step 2, a drain: one data-register read, the unit stored at `rx_buf + rx_cnt` low byte first, the receive
counter advanced; when that reaches the total, RXF masked, busy cleared and TRANSFER_COMPLETE delivered; otherwise, on a
master with no transmit buffer, one filler write and the hold; otherwise nothing more (R206, R207, R216; that masked
conditions are tested is decision D11, that RXF alone is masked D14). -/
def Obligations.DrainStoresUnitAndAdvances : Prop :=
  ∀ (s : State) (i : Idx) (x : Spi), Ready s i x → x.hw.irqEn = true → x.ser.raw &&& x.hw.imr &&& 0b01110 = 0 →
    x.ser.srRfne = true → x.ser.raw &&& x.hw.imr &&& 0b10000 ≠ 0 → x.xfer.rxBuf ≠ 0 →
    x.xfer.rxCnt.toNat < x.xfer.num.toNat →
    ∀ y : Spi, y = { x with
        drReads := x.drReads + 1
        xfer := { x.xfer with rxCnt := x.xfer.rxCnt + BitVec.ofNat 32 s.bpu } } →
    ∀ m : List Host.Cell, m = memWrite s.mem (x.xfer.rxBuf + x.xfer.rxCnt) s.bpu x.ser.drIn →
      (y.xfer.rxCnt = x.xfer.num → exec (.irq i) s = .next { s with
        mem := m
        evlog := s.evlog ++ (if x.run.cb = 0 then [] else [⟨i, x.run.cb, 1⟩])
        spis := setSpi s.spis i { y with
          hw := { x.hw with imr := x.hw.imr &&& 0b01111 }, run := { x.run with busy := false } } }) ∧
      (y.xfer.rxCnt ≠ x.xfer.num → x.desc.tag ≠ .slave → x.xfer.txBuf = 0 → exec (.irq i) s = .next { s with
        mem := m
        ctx := .isrWait i .afterFiller
        spis := setSpi s.spis i { y with drlog := x.drlog ++ [s.params.dummyByte.setWidth 32] } }) ∧
      (y.xfer.rxCnt ≠ x.xfer.num → x.desc.tag = .slave ∨ x.xfer.txBuf ≠ 0 → exec (.irq i) s = .next { s with
        mem := m, spis := setSpi s.spis i y })

/-- Handler, already complete: a receive-ready with the receive total reached, or a transmit-ready with the transmit total
reached, delivers DATA_LOST and changes nothing else, the data_lost flag included (R208, R212, R214; masked
conditions, decision D11). -/
def Obligations.AlreadyCompleteRaisesDataLostOnly : Prop :=
  ∀ (s : State) (i : Idx) (x : Spi), Ready s i x → x.hw.irqEn = true → x.ser.raw &&& x.hw.imr &&& 0b01110 = 0 →
    ((x.ser.srRfne = true ∧ x.ser.raw &&& x.hw.imr &&& 0b10000 ≠ 0 ∧ x.xfer.rxBuf ≠ 0 ∧
        x.xfer.num.toNat ≤ x.xfer.rxCnt.toNat) ∨
      ((x.ser.srRfne = false ∨ x.ser.raw &&& x.hw.imr &&& 0b10000 = 0) ∧ x.ser.srTfnf = true ∧
        x.ser.raw &&& x.hw.imr &&& 0b00001 ≠ 0 ∧ x.xfer.txBuf ≠ 0 ∧ x.xfer.num.toNat ≤ x.xfer.txCnt.toNat)) →
    exec (.irq i) s = .next { s with evlog := s.evlog ++ (if x.run.cb = 0 then [] else [⟨i, x.run.cb, 2⟩]) }

/-- Handler step 3, a write: the unit at `tx_buf + tx_cnt` goes to the data register, the transmit counter advances, and
the handler holds; nothing else (R210, R216; masked conditions, decision D11). -/
def Obligations.TransmitWritesUnitAndHolds : Prop :=
  ∀ (s : State) (i : Idx) (x : Spi), Ready s i x → x.hw.irqEn = true → x.ser.raw &&& x.hw.imr &&& 0b01110 = 0 →
    (x.ser.srRfne = false ∨ x.ser.raw &&& x.hw.imr &&& 0b10000 = 0) → x.ser.srTfnf = true →
    x.ser.raw &&& x.hw.imr &&& 0b00001 ≠ 0 → x.xfer.txBuf ≠ 0 → x.xfer.txCnt.toNat < x.xfer.num.toNat →
    exec (.irq i) s = .next { s with
      ctx := .isrWait i .afterTx
      spis := setSpi s.spis i { x with
        drlog := x.drlog ++ [memRead s.mem (x.xfer.txBuf + x.xfer.txCnt) s.bpu]
        xfer := { x.xfer with txCnt := x.xfer.txCnt + BitVec.ofNat 32 s.bpu } } }

/-- Phase B, taken when the hardware busy flag is clear and no environment move is next among the inputs (that the inputs say
which comes first, and that phase B comes by itself before a frame, is the model's choice, log 10): after a write that reaches the total in TX_ONLY it masks TXE,
clears busy and delivers TRANSFER_COMPLETE; in another direction `P_TX_MASK = ALWAYS` masks TXE; otherwise, and after a
filler, it only returns to FOREGROUND (R211, R216; that TXE alone is masked is decision D14, `P_TX_MASK` D16). -/
def Obligations.PhaseBCompletesTransmit : Prop :=
  ∀ (s : State) (i : Idx) (x : Spi) (rest : List Input), s.spi? i = some x → x.ser.srBusy = false →
    (s.inputs = .resume :: rest ∨
      (s.inputs = rest ∧ (rest = [] ∨ ∃ f more, rest = .command f :: more ∨ rest = .stimulus f :: more))) →
    (s.ctx = .isrWait i .afterFiller → step s = .next { s with inputs := rest, ctx := .foreground }) ∧
    (s.ctx = .isrWait i .afterTx →
      (x.xfer.txCnt ≠ x.xfer.num → step s = .next { s with inputs := rest, ctx := .foreground }) ∧
      (x.xfer.txCnt = x.xfer.num → x.hw.tmod = .txOnly → step s = .next { s with
        inputs := rest
        ctx := .foreground
        evlog := s.evlog ++ (if x.run.cb = 0 then [] else [⟨i, x.run.cb, 1⟩])
        spis := setSpi s.spis i { x with
          hw := { x.hw with imr := x.hw.imr &&& 0b11110 }, run := { x.run with busy := false } } }) ∧
      (x.xfer.txCnt = x.xfer.num → x.hw.tmod ≠ .txOnly → s.params.pTxMask = .literal →
        step s = .next { s with inputs := rest, ctx := .foreground }) ∧
      (x.xfer.txCnt = x.xfer.num → x.hw.tmod ≠ .txOnly → s.params.pTxMask = .always → step s = .next { s with
        inputs := rest
        ctx := .foreground
        spis := setSpi s.spis i { x with hw := { x.hw with imr := x.hw.imr &&& 0b11110 } } }))

/-- An enabled IRQ that finds no branch to take, or a receive-ready with no receive buffer, changes nothing (R205,
R213; masked conditions, decision D11; one branch at most, D12). -/
def Obligations.HandlerWithNothingToServe : Prop :=
  ∀ (s : State) (i : Idx) (x : Spi), Ready s i x → x.hw.irqEn = true → x.ser.raw &&& x.hw.imr ≠ 0 →
    x.ser.raw &&& x.hw.imr &&& 0b01110 = 0 →
    ((x.ser.srRfne = true ∧ x.ser.raw &&& x.hw.imr &&& 0b10000 ≠ 0 ∧ x.xfer.rxBuf = 0) ∨
      ((x.ser.srRfne = false ∨ x.ser.raw &&& x.hw.imr &&& 0b10000 = 0) ∧
        (x.ser.srTfnf = false ∨ x.ser.raw &&& x.hw.imr &&& 0b00001 = 0 ∨ x.xfer.txBuf = 0))) →
    exec (.irq i) s = .next s

/-! ### DMA -/

/-- Any beat not performed yet of an enabled channel that is configured and not re-armed while enabled, presented by the
environment in any order: a transmit beat queues the unit at its source address, a receive beat stores what the data register
presents at its destination address; the address is `base + k*(size/8)` under INC and `base` under FIXED. A single byte of a beat
may move ahead: a transmit byte is read into the beat, a receive beat reads the data register once and stores the byte, and the
beat is completed by its other bytes (R69, R81; the byte order of a beat is decision D31; how a beat in the middle is held is
the model's, log 29). -/
def Obligations.DmaBeatMovesOneUnit : Prop :=
  ∀ (s : State) (i : Idx) (x : Spi) (rest : List Input) (g : DmaCfg) (base a : Word) (k b : Nat), Ready s i x →
    s.dmaEngineEn = true → k < g.beats →
    (x.dmaTx.cfg = some g → g.src = .mem base → x.dmaTx.en = true → x.dmaTx.stale = false → k ∉ x.dmaTx.done →
      a = base + (if g.srcInc = .inc then BitVec.ofNat 32 (k * (g.size / 8)) else 0) →
      (s.inputs = .env (.dmaBeat i .tx k) :: rest → (∀ p ∈ x.dmaTx.flight, p.beat ≠ k) →
        step s = .next { s with
          inputs := rest
          spis := setSpi s.spis i { x with
            dmaTx := { x.dmaTx with done := k :: x.dmaTx.done }
            drlog := x.drlog ++ [memRead s.mem a (g.size / 8)] } }) ∧
      (∀ p, p = x.dmaTx.part k 0 →
        (s.inputs = .env (.dmaBeat i .tx k) :: rest →
          step s = .next { s with
            inputs := rest
            spis := setSpi s.spis i { x with
              dmaTx := { x.dmaTx with done := k :: x.dmaTx.done, flight := x.dmaTx.flight.filter fun q => q.beat != k }
              drlog := x.drlog ++ [memFetch s.mem p.bytes a (g.size / 8) 0] } }) ∧
        (s.inputs = .env (.dmaByte i .tx k b) :: rest → b < g.size / 8 → p.bytes.lookup b = none →
          step s = .next { s with
            inputs := rest
            spis := setSpi s.spis i { x with dmaTx := { x.dmaTx with
              flight := { p with bytes := (b, s.byte (a + BitVec.ofNat 32 b)) :: p.bytes } ::
                x.dmaTx.flight.filter fun q => q.beat != p.beat } } }))) ∧
    (x.dmaRx.cfg = some g → g.dst = .mem base → x.dmaRx.en = true → x.dmaRx.stale = false → k ∉ x.dmaRx.done →
      a = base + (if g.dstInc = .inc then BitVec.ofNat 32 (k * (g.size / 8)) else 0) →
      (s.inputs = .env (.dmaBeat i .rx k) :: rest → (∀ p ∈ x.dmaRx.flight, p.beat ≠ k) →
        step s = .next { s with
          inputs := rest
          mem := memWrite s.mem a (g.size / 8) x.ser.drIn
          spis := setSpi s.spis i { x with
            dmaRx := { x.dmaRx with done := k :: x.dmaRx.done }, drReads := x.drReads + 1 } }) ∧
      (∀ p, p = x.dmaRx.part k x.ser.drIn → ∀ n, n = x.drReads + (if p ∈ x.dmaRx.flight then 0 else 1) →
        (s.inputs = .env (.dmaBeat i .rx k) :: rest →
          step s = .next { s with
            inputs := rest
            mem := memStore s.mem p.bytes a (g.size / 8) 0 p.data
            spis := setSpi s.spis i { x with
              dmaRx := { x.dmaRx with done := k :: x.dmaRx.done, flight := x.dmaRx.flight.filter fun q => q.beat != k }
              drReads := n } }) ∧
        (s.inputs = .env (.dmaByte i .rx k b) :: rest → b < g.size / 8 → p.bytes.lookup b = none →
          step s = .next { s with
            inputs := rest
            mem := writeCell s.mem (a + BitVec.ofNat 32 b).toNat (p.data.extractLsb' (8 * b) 8)
            spis := setSpi s.spis i { x with
              drReads := n
              dmaRx := { x.dmaRx with
                flight := { p with bytes := (b, p.data.extractLsb' (8 * b) 8) :: p.bytes } ::
                  x.dmaRx.flight.filter fun q => q.beat != p.beat } } })))

/-- When a DMA stimulus is taken: an error event exactly when the context is FOREGROUND and channel and engine are enabled;
DONE, of a channel configured and not re-armed while enabled, exactly when moreover every beat has been performed,
in whatever order (44_dma_completion.md section 1; decision D31, log 13, log 14). -/
def Obligations.DmaStimulusTakenExactlyWhenEnabled : Prop :=
  ∀ (s : State) (i : Idx) (kind : Word),
    ((∃ t, exec (.dmaTxError i kind) s = .next t) ↔ ∃ x, Ready s i x ∧ s.dmaEngineEn = true ∧ x.dmaTx.en = true) ∧
    ((∃ t, exec (.dmaRxError i kind) s = .next t) ↔ ∃ x, Ready s i x ∧ s.dmaEngineEn = true ∧ x.dmaRx.en = true) ∧
    (∀ x g, s.spi? i = some x → x.dmaTx.cfg = some g → x.dmaTx.stale = false →
      ((∃ t, exec (.dmaTxDone i) s = .next t) ↔
        s.ctx = .foreground ∧ s.dmaEngineEn = true ∧ x.dmaTx.en = true ∧ ∀ k < g.beats, k ∈ x.dmaTx.done)) ∧
    (∀ x g, s.spi? i = some x → x.dmaRx.cfg = some g → x.dmaRx.stale = false →
      ((∃ t, exec (.dmaRxDone i) s = .next t) ↔
        s.ctx = .foreground ∧ s.dmaEngineEn = true ∧ x.dmaRx.en = true ∧ ∀ k < g.beats, k ∈ x.dmaRx.done))

/-- DMA_TX_DONE, its whole next state: the transmit counter set to the total, busy cleared in every direction, the channel
disabled, TRANSFER_COMPLETE in TX_ONLY only (R231; the channel's disabling is decision D31; that a channel re-armed while
enabled may finish at any time, and that delivery clears `stale`, is the model's choice, log 14). -/
def Obligations.TransmitDoneClosesTransfer : Prop :=
  ∀ (s : State) (i : Idx) (x : Spi) (g : DmaCfg), Ready s i x → s.dmaEngineEn = true → x.dmaTx.en = true →
    x.dmaTx.cfg = some g → ((∀ k < g.beats, k ∈ x.dmaTx.done) ∨ x.dmaTx.stale = true) →
    exec (.dmaTxDone i) s = .next { s with
      evlog := s.evlog ++ (if x.hw.tmod = .txOnly ∧ x.run.cb ≠ 0 then [⟨i, x.run.cb, 1⟩] else [])
      spis := setSpi s.spis i { x with
        dmaTx := { x.dmaTx with en := false, stale := false }
        xfer := { x.xfer with txCnt := x.xfer.num }
        run := { x.run with busy := false } } }

/-- DMA_RX_DONE, its whole next state: the receive counter set to the total, busy cleared, the channel disabled, the active
slave-select line deasserted on a master, TRANSFER_COMPLETE always (R233, R234; the channel's disabling is decision D31; that a channel
re-armed while enabled may finish at any time, and that delivery clears `stale`, is the model's choice, log 14). -/
def Obligations.ReceiveDoneClosesTransfer : Prop :=
  ∀ (s : State) (i : Idx) (x : Spi) (g : DmaCfg), Ready s i x → s.dmaEngineEn = true → x.dmaRx.en = true →
    x.dmaRx.cfg = some g → ((∀ k < g.beats, k ∈ x.dmaRx.done) ∨ x.dmaRx.stale = true) →
    exec (.dmaRxDone i) s = .next { s with
      evlog := s.evlog ++ (if x.run.cb ≠ 0 then [⟨i, x.run.cb, 1⟩] else [])
      spis := setSpi s.spis i { x with
        dmaRx := { x.dmaRx with en := false, stale := false }
        xfer := { x.xfer with rxCnt := x.xfer.num }
        hw := { x.hw with
          ssActive := if x.desc.tag = .slave then x.hw.ssActive else x.hw.ssActive.set s.slaveNo false }
        run := { x.run with busy := false } } }

/-- DMA error events are swallowed: only the channel's enable goes, busy stays, no event (R235; the enable's going is decision
D31; that the delivery clears the model's own `stale` too is log 14, a DESIGN CHOICE). -/
def Obligations.DmaErrorsAreSwallowed : Prop :=
  ∀ (s : State) (i : Idx) (x : Spi) (kind : Word), Ready s i x → s.dmaEngineEn = true →
    (x.dmaTx.en = true → exec (.dmaTxError i kind) s = .next { s with
      spis := setSpi s.spis i { x with dmaTx := { x.dmaTx with en := false, stale := false } } }) ∧
    (x.dmaRx.en = true → exec (.dmaRxError i kind) s = .next { s with
      spis := setSpi s.spis i { x with dmaRx := { x.dmaRx with en := false, stale := false } } })

/-! ### Memory and units -/

/-- `MemWrite(a, n, v)` with n up to 4 on a canonical memory: byte k of the unit at `a + k` is `v[8k+7:8k]`, every other byte
is as before, the form stays canonical, and `MemRead` gives the low n bytes back. The same of a DMA beat some of whose bytes have
moved already, `bytes`: a transmit unit has those and reads the others now, a receive beat stores the others only (R63, R69;
addresses modulo 2^32, decision D29; log 29). -/
def Obligations.MemWriteIsLowByteFirst : Prop :=
  ∀ (m : List Host.Cell) (a v : Word) (n : Nat) (bytes : List (Nat × Byte)), Memory.wf m = true → n ≤ 4 →
    (∀ k < n, readCell (memWrite m a n v) (a + BitVec.ofNat 32 k).toNat = v.extractLsb' (8 * k) 8) ∧
    (∀ b : Word, (∀ k < n, b ≠ a + BitVec.ofNat 32 k) →
      readCell (memWrite m a n v) b.toNat = readCell m b.toNat) ∧
    Memory.wf (memWrite m a n v) = true ∧
    memRead (memWrite m a n v) a n = v &&& BitVec.ofNat 32 (2 ^ (8 * n) - 1) ∧
    (∀ k < n, (memFetch m bytes a n 0).extractLsb' (8 * k) 8 =
      (bytes.lookup k).getD (readCell m (a + BitVec.ofNat 32 k).toNat)) ∧
    (∀ k < n, readCell (memStore m bytes a n 0 v) (a + BitVec.ofNat 32 k).toNat =
      if bytes.lookup k = none then v.extractLsb' (8 * k) 8 else readCell m (a + BitVec.ofNat 32 k).toNat) ∧
    (∀ b : Word, (∀ k < n, b ≠ a + BitVec.ofNat 32 k) →
      readCell (memStore m bytes a n 0 v) b.toNat = readCell m b.toNat) ∧
    Memory.wf (memStore m bytes a n 0 v) = true

/-- `WidthToBytes` on the widths a mode select accepts (R64). -/
def Obligations.WidthToBytesTable : Prop :=
  ∀ w : BitVec 6, 4 ≤ w.toNat → w.toNat ≤ 32 →
    (w.toNat ≤ 7 → widthToBytes w = 1) ∧ (8 ≤ w.toNat → w.toNat ≤ 15 → widthToBytes w = 2) ∧
    (16 ≤ w.toNat → widthToBytes w = 4)

/-! ### Whole-machine rules -/

/-- Memory frame of every instruction: a byte that changes is one of the `bpu` bytes at `rx_buf + rx_cnt` of an IRQ on that
instance; every other instruction leaves every byte as it was (20_memory.md R60, R68; 60_exceptions.md R266; the address space is decision D9). -/
def Obligations.InstructionMemoryFrame : Prop :=
  ∀ (c : Instr) (s t : State) (a : Word), exec c s = .next t → t.byte a ≠ s.byte a →
    ∃ i x k, c = .irq i ∧ s.spi? i = some x ∧ k < s.bpu ∧
      a = x.xfer.rxBuf + x.xfer.rxCnt + BitVec.ofNat 32 k

/-- An instruction on one instance leaves every other instance, the instance set, the inputs and the launch parameters as
they are (60_exceptions.md R276). -/
def Obligations.OtherInstancesUntouched : Prop :=
  ∀ (c : Instr) (s t : State), exec c s = .next t →
    (∀ j, j ≠ c.idx → t.spi? j = s.spi? j) ∧ t.insts = s.insts ∧ t.inputs = s.inputs ∧ t.params = s.params ∧
    t.slaveNo = s.slaveNo

/-- What interrupt context may write: a stimulus leaves the lifecycle bits, mode word, callback, buffers, total, fill value,
descriptor, every hardware register but the mask and the slave-select lines, `bpu`, `dma_init`, `dma_engine_en`, the call log
and the return word as they are; it can only clear busy, only set data_lost, only clear mask bits and channel enables
(60_exceptions.md R266, 44_dma_completion.md R236). -/
def Obligations.InterruptContextWrites : Prop :=
  ∀ (c : Instr) (s t : State) (j : Idx) (x y : Spi), c.port = .stimulus → exec c s = .next t →
    s.spi? j = some x → t.spi? j = some y →
    y.run = { x.run with busy := y.run.busy, dataLost := y.run.dataLost } ∧
    (y.run.busy = true → x.run.busy = true) ∧ (x.run.dataLost = true → y.run.dataLost = true) ∧
    y.xfer = { x.xfer with txCnt := y.xfer.txCnt, rxCnt := y.xfer.rxCnt } ∧
    y.hw = { x.hw with imr := y.hw.imr, ssActive := y.hw.ssActive } ∧ y.hw.imr &&& x.hw.imr = y.hw.imr ∧
    y.dmaTx.cfg = x.dmaTx.cfg ∧ y.dmaRx.cfg = x.dmaRx.cfg ∧ (y.dmaTx.en = true → x.dmaTx.en = true) ∧
    (y.dmaRx.en = true → x.dmaRx.en = true) ∧ y.desc = x.desc ∧
    t.bpu = s.bpu ∧ t.dmaInit = s.dmaInit ∧ t.dmaEngineEn = s.dmaEngineEn ∧ t.xlog = s.xlog ∧ t.ret = s.ret

/-- What a host operation leaves: host memory, the event log, the context, and on every instance the environment's inputs, the
read count and the data-register log but for a kick-start (R60, R263, R266; the kick-start R185). -/
def Obligations.HostOperationFrame : Prop :=
  ∀ (c : Instr) (s t : State) (j : Idx) (x y : Spi), c.port = .command → exec c s = .next t →
    s.spi? j = some x → t.spi? j = some y →
    t.mem = s.mem ∧ t.evlog = s.evlog ∧ t.ctx = s.ctx ∧ y.ser = x.ser ∧ y.drReads = x.drReads ∧ y.desc = x.desc ∧
    (y.drlog = x.drlog ∨ (y.drlog = x.drlog ++ [s.params.dummyByte.setWidth 32] ∧ ∃ b n, c = .receive j b n))

/-- Every failing operation leaves the whole state unchanged, with one exception: a host operation other than a query or
GET_BUS_SPEED that does not answer OK changes nothing but the return word, unless it is a transfer call on an instance with a
DMA channel bound that answers ERROR (60_exceptions.md R249). -/
def Obligations.FailureChangesNothing : Prop :=
  ∀ (c : Instr) (s t : State), c.port = .command → exec c s = .next t → t.ret ≠ 0 →
    t = { s with ret := t.ret } ∨
    (t.ret = 0xFFFFFFFF ∧ (∃ x, s.spi? c.idx = some x ∧ (x.desc.dmaTxBound = true ∨ x.desc.dmaRxBound = true)) ∧
      ∃ i a b n, c = .send i a n ∨ c = .receive i a n ∨ c = .transfer i a b n)

/-- Every instruction delivers at most one event, with mask TRANSFER_COMPLETE or DATA_LOST, to a registered callback; a host
operation delivers none (43_interrupt_pump.md R215; 60_exceptions.md R263, R265; the bit numbers are decision D4). -/
def Obligations.AtMostOneEventPerInstruction : Prop :=
  ∀ (c : Instr) (s t : State), exec c s = .next t →
    t.evlog = s.evlog ∨
    (c.port = .stimulus ∧ ∃ e : Event, t.evlog = s.evlog ++ [e] ∧ e.inst = c.idx ∧ e.cb ≠ 0 ∧
      (e.mask = 1 ∨ e.mask = 2))

/-- busy is set only by a transfer call that passed its preconditions, and no instruction sets mode_fault; data_lost is set only
by IRQ (10_state.md R37). -/
def Obligations.WhoSetsStatusFlags : Prop :=
  ∀ (c : Instr) (s t : State) (j : Idx) (x y : Spi), exec c s = .next t → s.spi? j = some x → t.spi? j = some y →
    (x.run.busy = false → y.run.busy = true → x.run.st.getLsbD 2 = true ∧
      ∃ a b n, n ≠ 0 ∧ a ≠ 0 ∧ (c = .send j a n ∨ c = .receive j a n ∨ (c = .transfer j a b n ∧ b ≠ 0))) ∧
    (x.run.dataLost = false → y.run.dataLost = true → c = .irq j) ∧
    (y.run.modeFault = true → x.run.modeFault = true)

/-- Who writes the interrupt mask: a bit that becomes unmasked is one of a transfer call on an instance with no DMA channel bound;
a bit that becomes masked is masked by IRQ or by a mode select MASTER or SLAVE, which masks all five (10_state.md R40; phase B
is stated apart). -/
def Obligations.WhoWritesInterruptMask : Prop :=
  ∀ (c : Instr) (s t : State) (j : Idx) (x y : Spi), exec c s = .next t → s.spi? j = some x → t.spi? j = some y →
    y.hw.imr = x.hw.imr ∨
    (x.desc.dmaTxBound = false ∧ x.desc.dmaRxBound = false ∧ ∃ a b n,
      (c = .send j a n ∧ y.hw.imr = x.hw.imr ||| 0b00011) ∨ (c = .receive j a n ∧ y.hw.imr = x.hw.imr ||| 0b11100) ∨
      (c = .transfer j a b n ∧ y.hw.imr = 0b11111)) ∨
    (c = .irq j ∧ y.hw.imr = x.hw.imr &&& 0b01111) ∨
    (y.hw.imr = 0 ∧ ∃ ff bits order ssm sss v, c = .ctlModeMaster j ff bits order ssm v ∨ c = .ctlModeSlave j ff bits order sss)

/-- Who writes the lifecycle bits, complete: Initialize sets INITIALIZED, PowerControl(FULL) sets POWERED, PowerControl(OFF) clears
it, a mode select MASTER or SLAVE sets CONFIGURED on a POWERED instance, INACTIVE clears it, Uninitialize clears all three; nothing
else (10_state.md R22, R36). -/
def Obligations.WhoWritesLifecycleBits : Prop :=
  ∀ (c : Instr) (s t : State) (j : Idx) (x y : Spi), exec c s = .next t → s.spi? j = some x → t.spi? j = some y →
    y.run.st = x.run.st ∨
    (y.run.st = x.run.st ||| 0b001 ∧ ∃ cb, c = .initializeOp j cb) ∨
    (y.run.st = x.run.st ||| 0b010 ∧ x.run.st.getLsbD 0 = true ∧ c = .powerFull j) ∨
    (y.run.st = x.run.st &&& 0b101 ∧ c = .powerOff j) ∨
    (y.run.st = x.run.st ||| 0b100 ∧ x.run.st.getLsbD 1 = true ∧
      ∃ ff bits order ssm sss v, c = .ctlModeMaster j ff bits order ssm v ∨ c = .ctlModeSlave j ff bits order sss) ∨
    (y.run.st = x.run.st &&& 0b011 ∧ c = .ctlModeInactive j) ∨
    (y.run.st = 0 ∧ c = .uninitializeOp j)

/-- Who writes the shared unit size: only a mode select MASTER or SLAVE that answers OK, from its data-bits field (10_state.md R31). -/
def Obligations.WhoWritesUnitSize : Prop :=
  ∀ (c : Instr) (s t : State), exec c s = .next t → t.bpu ≠ s.bpu →
    t.ret = 0 ∧ ∃ i ff bits order ssm sss v, (c = .ctlModeMaster i ff bits order ssm v ∨ c = .ctlModeSlave i ff bits order sss) ∧
      t.bpu = widthToBytes bits

/-- Who writes the hardware-path enable and the interrupt line's gate: the path is enabled only by a transfer call and disabled only by
PowerControl(OFF); the gate is opened only by PowerControl(FULL) and closed only by PowerControl(OFF) (10_state.md R38, R47). -/
def Obligations.WhoWritesPathAndGate : Prop :=
  ∀ (c : Instr) (s t : State) (j : Idx) (x y : Spi), exec c s = .next t → s.spi? j = some x → t.spi? j = some y →
    (x.hw.hwEn = false → y.hw.hwEn = true → ∃ a b n, c = .send j a n ∨ c = .receive j a n ∨ c = .transfer j a b n) ∧
    (x.hw.hwEn = true → y.hw.hwEn = false → c = .powerOff j) ∧
    (x.hw.irqEn = false → y.hw.irqEn = true → c = .powerFull j) ∧
    (x.hw.irqEn = true → y.hw.irqEn = false → c = .powerOff j)
end

