-- ==== Sys2Proof/Laws/Decode.lean ====
section
/-! SUPPORT. The fields of the words the encoder writes, and what a frame that decodes decodes to. -/

namespace Sys2Proof

/-! ### Fields of the encoder's words -/

theorem op_cmdWord (o : BitVec 8) (i : Idx) : (cmdWord o i).extractLsb' 0 8 = o := by
  apply BitVec.eq_of_getLsbD_eq; intro j hj
  simp only [cmdWord, BitVec.getLsbD_append, BitVec.getLsbD_extractLsb']
  interval_cases j
  all_goals simp

theorem inst_cmdWord (o : BitVec 8) (i : Idx) : (cmdWord o i).extractLsb' 8 8 = i := by
  apply BitVec.eq_of_getLsbD_eq; intro j hj
  simp only [cmdWord, BitVec.getLsbD_append, BitVec.getLsbD_extractLsb']
  interval_cases j
  all_goals simp

theorem zero_cmdWord (o : BitVec 8) (i : Idx) : (cmdWord o i).extractLsb' 16 16 = 0 := by
  apply BitVec.eq_of_getLsbD_eq; intro j hj
  simp only [cmdWord, BitVec.getLsbD_append, BitVec.getLsbD_extractLsb']
  interval_cases j
  all_goals simp

section ControlWord
variable (c : BitVec 8) (ff : BitVec 4) (bits : BitVec 6) (order : BitVec 1) (ssm : BitVec 2) (sss : BitVec 1)

theorem code_controlWord : (controlWord c ff bits order ssm sss).extractLsb' 0 8 = c := by
  apply BitVec.eq_of_getLsbD_eq; intro j hj
  simp only [controlWord, BitVec.getLsbD_append, BitVec.getLsbD_extractLsb']
  interval_cases j
  all_goals simp

theorem ff_controlWord : (controlWord c ff bits order ssm sss).extractLsb' 8 4 = ff := by
  apply BitVec.eq_of_getLsbD_eq; intro j hj
  simp only [controlWord, BitVec.getLsbD_append, BitVec.getLsbD_extractLsb']
  interval_cases j
  all_goals simp

theorem bits_controlWord : (controlWord c ff bits order ssm sss).extractLsb' 12 6 = bits := by
  apply BitVec.eq_of_getLsbD_eq; intro j hj
  simp only [controlWord, BitVec.getLsbD_append, BitVec.getLsbD_extractLsb']
  interval_cases j
  all_goals simp

theorem order_controlWord : (controlWord c ff bits order ssm sss).extractLsb' 18 1 = order := by
  apply BitVec.eq_of_getLsbD_eq; intro j hj
  simp only [controlWord, BitVec.getLsbD_append, BitVec.getLsbD_extractLsb']
  interval_cases j
  all_goals simp

theorem ssm_controlWord : (controlWord c ff bits order ssm sss).extractLsb' 19 2 = ssm := by
  apply BitVec.eq_of_getLsbD_eq; intro j hj
  simp only [controlWord, BitVec.getLsbD_append, BitVec.getLsbD_extractLsb']
  interval_cases j
  all_goals simp

theorem sss_controlWord : (controlWord c ff bits order ssm sss).extractLsb' 21 1 = sss := by
  apply BitVec.eq_of_getLsbD_eq; intro j hj
  simp only [controlWord, BitVec.getLsbD_append, BitVec.getLsbD_extractLsb']
  interval_cases j
  all_goals simp

end ControlWord

/-! ### Rows of the opcode table -/

theorem cmd_and_mask (f : Frame) (op : BitVec 8) :
    f.cmd &&& 0xFFFF00FF#32 = op.setWidth 32 ↔ f.zero = 0 ∧ f.op = op := by
  constructor
  · intro h
    have hz := congrArg (BitVec.extractLsb' 16 16) h
    have ho := congrArg (BitVec.extractLsb' 0 8) h
    have ez : (f.cmd &&& 0xFFFF00FF#32).extractLsb' 16 16 = f.zero := by
      apply BitVec.eq_of_getLsbD_eq; intro j hj
      simp only [Frame.zero]
      interval_cases j
      all_goals simp
    have eo : (f.cmd &&& 0xFFFF00FF#32).extractLsb' 0 8 = f.op := by
      apply BitVec.eq_of_getLsbD_eq; intro j hj
      simp only [Frame.op]
      interval_cases j
      all_goals simp
    rw [ez] at hz
    rw [eo] at ho
    refine ⟨hz.trans ?_, ho.trans ?_⟩
    · apply BitVec.eq_of_getLsbD_eq; intro j hj
      interval_cases j
      all_goals simp
    · apply BitVec.eq_of_getLsbD_eq; intro j hj
      interval_cases j
      all_goals simp
  · rintro ⟨hz, rfl⟩
    have z : ∀ j, f.zero.getLsbD j = false := by intro j; rw [hz]; simp
    apply BitVec.eq_of_getLsbD_eq; intro j hj
    have zj := z (j - 16)
    simp only [Frame.zero, Frame.op] at zj ⊢
    interval_cases j <;> simp at zj ⊢ <;> try exact zj

theorem a0_and_low8 (f : Frame) (c : BitVec 8) : f.a0 &&& 0xFF#32 = c.setWidth 32 ↔ f.code = c := by
  constructor
  · intro h
    have hc := congrArg (BitVec.extractLsb' 0 8) h
    have ec : (f.a0 &&& 0xFF#32).extractLsb' 0 8 = f.code := by
      apply BitVec.eq_of_getLsbD_eq; intro j hj
      simp only [Frame.code]
      interval_cases j
      all_goals simp
    rw [ec] at hc
    refine hc.trans ?_
    apply BitVec.eq_of_getLsbD_eq; intro j hj
    interval_cases j
    all_goals simp
  · rintro rfl
    apply BitVec.eq_of_getLsbD_eq; intro j hj
    simp only [Frame.code]
    interval_cases j
    all_goals simp

/-- When a row accepts a frame: the masked argument word, ZERO = 0, and the row's OP (R95). -/
theorem TableRow.accepts_iff (r : TableRow) (f : Frame) (op : BitVec 8) (ma pa : Word)
    (hm : r.mask = ma ++ 0xFFFF00FF#32) (hp : r.pattern = pa ++ op.setWidth 32) :
    r.accepts f.decodeWord = true ↔ f.a0 &&& ma = pa ∧ f.zero = 0 ∧ f.op = op := by
  have hi : ∀ p q : Word, (p ++ q).extractLsb' 32 32 = p := by
    intro p q; apply BitVec.eq_of_getLsbD_eq; intro j hj
    simp only [BitVec.getLsbD_extractLsb', BitVec.getLsbD_append]
    simp [hj]
  have lo : ∀ p q : Word, (p ++ q).extractLsb' 0 32 = q := by
    intro p q; apply BitVec.eq_of_getLsbD_eq; intro j hj
    simp only [BitVec.getLsbD_extractLsb', BitVec.getLsbD_append]
    simp [hj]
  simp only [TableRow.accepts, Frame.decodeWord, hm, hp, beq_iff_eq]
  rw [BitVec.and_append, ← cmd_and_mask]
  constructor
  · intro h
    have e1 := congrArg (BitVec.extractLsb' 32 32) h
    have e2 := congrArg (BitVec.extractLsb' 0 32) h
    rw [hi, hi] at e1
    rw [lo, lo] at e2
    exact ⟨e1, e2⟩
  · rintro ⟨h1, h2⟩
    rw [h1, h2]

/-! ### What a frame decodes to -/

theorem decodePower_ok {f : Frame} {x : Instr} (h : decodePower f = .ok x) : x.idx = f.inst ∧ x.port = .command := by
  unfold decodePower at h
  repeat' split at h
  all_goals cases h
  all_goals exact ⟨rfl, rfl⟩

theorem decodeControl_ok {f : Frame} {x : Instr} (h : decodeControl f = .ok x) :
    x.idx = f.inst ∧ x.port = .command := by
  unfold decodeControl at h
  repeat' split at h
  all_goals cases h
  all_goals exact ⟨rfl, rfl⟩

/-- What decodes on the command port is an operation of the instance in INST. -/
theorem decodeCommand_ok {f : Frame} {x : Instr} (h : decodeCommand f = .ok x) :
    x.idx = f.inst ∧ x.port = .command := by
  unfold decodeCommand decodeOperation at h
  repeat' split at h
  all_goals first | exact decodePower_ok h | exact decodeControl_ok h | cases h
  all_goals exact ⟨rfl, rfl⟩

/-- What decodes on the stimulus port is a stimulus of the instance in INST. -/
theorem decodeStimulus_ok {f : Frame} {x : Instr} (h : decodeStimulus f = .ok x) :
    x.idx = f.inst ∧ x.port = .stimulus := by
  unfold decodeStimulus decodeEvent at h
  repeat' split at h
  all_goals cases h
  all_goals exact ⟨rfl, rfl⟩

theorem decodePower_error {f : Frame} {r : Reject} (h : decodePower f = .error r) : r = .powerState f.inst f.a0 := by
  unfold decodePower at h
  repeat' split at h
  all_goals cases h
  rfl

theorem decodeControl_error {f : Frame} {r : Reject} (h : decodeControl f = .error r) :
    r = .controlCode f.inst f.code := by
  unfold decodeControl at h
  repeat' split at h
  all_goals cases h
  rfl

/-- Why a frame on the command port is no operation; a rejected power state or control code names the instance in
INST. -/
theorem decodeCommand_error {f : Frame} {r : Reject} (h : decodeCommand f = .error r) :
    r = .zeroField ∨ r = .reservedOp f.op ∨ r = .powerState f.inst f.a0 ∨ r = .controlCode f.inst f.code := by
  unfold decodeCommand decodeOperation at h
  repeat' split at h
  all_goals first
    | exact .inr (.inr (.inl (decodePower_error h)))
    | exact .inr (.inr (.inr (decodeControl_error h)))
    | exact .inr (.inl (by cases h; rfl))
    | exact .inl (by cases h; rfl)
    | cases h

end Sys2Proof
end

