-- ==== Sys2Proof/Laws/State.lean ====
section
/-! SUPPORT. The fields of the state after each named update of `Machine/Ops.lean` and `Machine/Flags.lean`, so that
no later proof unfolds a record update. -/

namespace Sys2Proof.Machine

/-! ### `State.put` -/

@[simp] theorem State.put_params (s : State) (i : Idx) (x : Spi) : (s.put i x).params = s.params := rfl
@[simp] theorem State.put_spis (s : State) (i : Idx) (x : Spi) : (s.put i x).spis = setSpi s.spis i x := rfl
@[simp] theorem State.put_bpu (s : State) (i : Idx) (x : Spi) : (s.put i x).bpu = s.bpu := rfl
@[simp] theorem State.put_slaveNo (s : State) (i : Idx) (x : Spi) : (s.put i x).slaveNo = s.slaveNo := rfl
@[simp] theorem State.put_ctx (s : State) (i : Idx) (x : Spi) : (s.put i x).ctx = s.ctx := rfl
@[simp] theorem State.put_dmaInit (s : State) (i : Idx) (x : Spi) : (s.put i x).dmaInit = s.dmaInit := rfl
@[simp] theorem State.put_dmaEngineEn (s : State) (i : Idx) (x : Spi) : (s.put i x).dmaEngineEn = s.dmaEngineEn := rfl
@[simp] theorem State.put_mem (s : State) (i : Idx) (x : Spi) : (s.put i x).mem = s.mem := rfl
@[simp] theorem State.put_xlog (s : State) (i : Idx) (x : Spi) : (s.put i x).xlog = s.xlog := rfl
@[simp] theorem State.put_evlog (s : State) (i : Idx) (x : Spi) : (s.put i x).evlog = s.evlog := rfl
@[simp] theorem State.put_inputs (s : State) (i : Idx) (x : Spi) : (s.put i x).inputs = s.inputs := rfl
@[simp] theorem State.put_ret (s : State) (i : Idx) (x : Spi) : (s.put i x).ret = s.ret := rfl

/-! ### `State.answer` -/

@[simp] theorem State.answer_params (s : State) (v : Word) : (s.answer v).params = s.params := rfl
@[simp] theorem State.answer_spis (s : State) (v : Word) : (s.answer v).spis = s.spis := rfl
@[simp] theorem State.answer_bpu (s : State) (v : Word) : (s.answer v).bpu = s.bpu := rfl
@[simp] theorem State.answer_slaveNo (s : State) (v : Word) : (s.answer v).slaveNo = s.slaveNo := rfl
@[simp] theorem State.answer_ctx (s : State) (v : Word) : (s.answer v).ctx = s.ctx := rfl
@[simp] theorem State.answer_dmaInit (s : State) (v : Word) : (s.answer v).dmaInit = s.dmaInit := rfl
@[simp] theorem State.answer_dmaEngineEn (s : State) (v : Word) : (s.answer v).dmaEngineEn = s.dmaEngineEn := rfl
@[simp] theorem State.answer_mem (s : State) (v : Word) : (s.answer v).mem = s.mem := rfl
@[simp] theorem State.answer_xlog (s : State) (v : Word) : (s.answer v).xlog = s.xlog := rfl
@[simp] theorem State.answer_evlog (s : State) (v : Word) : (s.answer v).evlog = s.evlog := rfl
@[simp] theorem State.answer_inputs (s : State) (v : Word) : (s.answer v).inputs = s.inputs := rfl
@[simp] theorem State.answer_ret (s : State) (v : Word) : (s.answer v).ret = v := rfl

/-! ### `State.reply` -/

@[simp] theorem State.reply_params (s : State) (c : Status) : (s.reply c).params = s.params := rfl
@[simp] theorem State.reply_spis (s : State) (c : Status) : (s.reply c).spis = s.spis := rfl
@[simp] theorem State.reply_bpu (s : State) (c : Status) : (s.reply c).bpu = s.bpu := rfl
@[simp] theorem State.reply_slaveNo (s : State) (c : Status) : (s.reply c).slaveNo = s.slaveNo := rfl
@[simp] theorem State.reply_ctx (s : State) (c : Status) : (s.reply c).ctx = s.ctx := rfl
@[simp] theorem State.reply_dmaInit (s : State) (c : Status) : (s.reply c).dmaInit = s.dmaInit := rfl
@[simp] theorem State.reply_dmaEngineEn (s : State) (c : Status) : (s.reply c).dmaEngineEn = s.dmaEngineEn := rfl
@[simp] theorem State.reply_mem (s : State) (c : Status) : (s.reply c).mem = s.mem := rfl
@[simp] theorem State.reply_xlog (s : State) (c : Status) : (s.reply c).xlog = s.xlog := rfl
@[simp] theorem State.reply_evlog (s : State) (c : Status) : (s.reply c).evlog = s.evlog := rfl
@[simp] theorem State.reply_inputs (s : State) (c : Status) : (s.reply c).inputs = s.inputs := rfl
@[simp] theorem State.reply_ret (s : State) (c : Status) : (s.reply c).ret = c.word := rfl

/-! ### `State.xcalls` -/

@[simp] theorem State.xcalls_params (s : State) (l : List XCall) : (s.xcalls l).params = s.params := rfl
@[simp] theorem State.xcalls_spis (s : State) (l : List XCall) : (s.xcalls l).spis = s.spis := rfl
@[simp] theorem State.xcalls_bpu (s : State) (l : List XCall) : (s.xcalls l).bpu = s.bpu := rfl
@[simp] theorem State.xcalls_slaveNo (s : State) (l : List XCall) : (s.xcalls l).slaveNo = s.slaveNo := rfl
@[simp] theorem State.xcalls_ctx (s : State) (l : List XCall) : (s.xcalls l).ctx = s.ctx := rfl
@[simp] theorem State.xcalls_dmaInit (s : State) (l : List XCall) : (s.xcalls l).dmaInit = s.dmaInit := rfl
@[simp] theorem State.xcalls_dmaEngineEn (s : State) (l : List XCall) : (s.xcalls l).dmaEngineEn = s.dmaEngineEn := rfl
@[simp] theorem State.xcalls_mem (s : State) (l : List XCall) : (s.xcalls l).mem = s.mem := rfl
@[simp] theorem State.xcalls_xlog (s : State) (l : List XCall) : (s.xcalls l).xlog = s.xlog ++ l := rfl
@[simp] theorem State.xcalls_evlog (s : State) (l : List XCall) : (s.xcalls l).evlog = s.evlog := rfl
@[simp] theorem State.xcalls_inputs (s : State) (l : List XCall) : (s.xcalls l).inputs = s.inputs := rfl
@[simp] theorem State.xcalls_ret (s : State) (l : List XCall) : (s.xcalls l).ret = s.ret := rfl

/-! ### `State.hold` -/

@[simp] theorem State.hold_params (s : State) (i : Idx) (k : Cont) : (s.hold i k).params = s.params := rfl
@[simp] theorem State.hold_spis (s : State) (i : Idx) (k : Cont) : (s.hold i k).spis = s.spis := rfl
@[simp] theorem State.hold_bpu (s : State) (i : Idx) (k : Cont) : (s.hold i k).bpu = s.bpu := rfl
@[simp] theorem State.hold_slaveNo (s : State) (i : Idx) (k : Cont) : (s.hold i k).slaveNo = s.slaveNo := rfl
@[simp] theorem State.hold_ctx (s : State) (i : Idx) (k : Cont) : (s.hold i k).ctx = .isrWait i k := rfl
@[simp] theorem State.hold_dmaInit (s : State) (i : Idx) (k : Cont) : (s.hold i k).dmaInit = s.dmaInit := rfl
@[simp] theorem State.hold_dmaEngineEn (s : State) (i : Idx) (k : Cont) : (s.hold i k).dmaEngineEn = s.dmaEngineEn := rfl
@[simp] theorem State.hold_mem (s : State) (i : Idx) (k : Cont) : (s.hold i k).mem = s.mem := rfl
@[simp] theorem State.hold_xlog (s : State) (i : Idx) (k : Cont) : (s.hold i k).xlog = s.xlog := rfl
@[simp] theorem State.hold_evlog (s : State) (i : Idx) (k : Cont) : (s.hold i k).evlog = s.evlog := rfl
@[simp] theorem State.hold_inputs (s : State) (i : Idx) (k : Cont) : (s.hold i k).inputs = s.inputs := rfl
@[simp] theorem State.hold_ret (s : State) (i : Idx) (k : Cont) : (s.hold i k).ret = s.ret := rfl

/-! ### `State.leaveHandler` -/

@[simp] theorem State.leaveHandler_params (s : State) : (s.leaveHandler).params = s.params := rfl
@[simp] theorem State.leaveHandler_spis (s : State) : (s.leaveHandler).spis = s.spis := rfl
@[simp] theorem State.leaveHandler_bpu (s : State) : (s.leaveHandler).bpu = s.bpu := rfl
@[simp] theorem State.leaveHandler_slaveNo (s : State) : (s.leaveHandler).slaveNo = s.slaveNo := rfl
@[simp] theorem State.leaveHandler_ctx (s : State) : (s.leaveHandler).ctx = .foreground := rfl
@[simp] theorem State.leaveHandler_dmaInit (s : State) : (s.leaveHandler).dmaInit = s.dmaInit := rfl
@[simp] theorem State.leaveHandler_dmaEngineEn (s : State) : (s.leaveHandler).dmaEngineEn = s.dmaEngineEn := rfl
@[simp] theorem State.leaveHandler_mem (s : State) : (s.leaveHandler).mem = s.mem := rfl
@[simp] theorem State.leaveHandler_xlog (s : State) : (s.leaveHandler).xlog = s.xlog := rfl
@[simp] theorem State.leaveHandler_evlog (s : State) : (s.leaveHandler).evlog = s.evlog := rfl
@[simp] theorem State.leaveHandler_inputs (s : State) : (s.leaveHandler).inputs = s.inputs := rfl
@[simp] theorem State.leaveHandler_ret (s : State) : (s.leaveHandler).ret = s.ret := rfl

/-! ### `State.emit` -/

/-- What `emit` appends: one entry when the mask is not 0 and a callback is registered, else nothing (R262). -/
theorem State.emit_eq (s : State) (i : Idx) (cb m : Word) :
    s.emit i cb m = { s with evlog := s.evlog ++ if m ≠ 0 ∧ cb ≠ 0 then [⟨i, cb, m⟩] else [] } := by
  unfold State.emit; split <;> simp_all

@[simp] theorem State.emit_params (s : State) (i : Idx) (cb m : Word) : (s.emit i cb m).params = s.params := by rw [State.emit_eq]
@[simp] theorem State.emit_spis (s : State) (i : Idx) (cb m : Word) : (s.emit i cb m).spis = s.spis := by rw [State.emit_eq]
@[simp] theorem State.emit_bpu (s : State) (i : Idx) (cb m : Word) : (s.emit i cb m).bpu = s.bpu := by rw [State.emit_eq]
@[simp] theorem State.emit_slaveNo (s : State) (i : Idx) (cb m : Word) : (s.emit i cb m).slaveNo = s.slaveNo := by rw [State.emit_eq]
@[simp] theorem State.emit_ctx (s : State) (i : Idx) (cb m : Word) : (s.emit i cb m).ctx = s.ctx := by rw [State.emit_eq]
@[simp] theorem State.emit_dmaInit (s : State) (i : Idx) (cb m : Word) : (s.emit i cb m).dmaInit = s.dmaInit := by rw [State.emit_eq]
@[simp] theorem State.emit_dmaEngineEn (s : State) (i : Idx) (cb m : Word) : (s.emit i cb m).dmaEngineEn = s.dmaEngineEn := by rw [State.emit_eq]
@[simp] theorem State.emit_mem (s : State) (i : Idx) (cb m : Word) : (s.emit i cb m).mem = s.mem := by rw [State.emit_eq]
@[simp] theorem State.emit_xlog (s : State) (i : Idx) (cb m : Word) : (s.emit i cb m).xlog = s.xlog := by rw [State.emit_eq]
@[simp] theorem State.emit_inputs (s : State) (i : Idx) (cb m : Word) : (s.emit i cb m).inputs = s.inputs := by rw [State.emit_eq]
@[simp] theorem State.emit_ret (s : State) (i : Idx) (cb m : Word) : (s.emit i cb m).ret = s.ret := by rw [State.emit_eq]
@[simp] theorem State.emit_evlog (s : State) (i : Idx) (cb m : Word) :
    (s.emit i cb m).evlog = s.evlog ++ if m ≠ 0 ∧ cb ≠ 0 then [⟨i, cb, m⟩] else [] := by rw [State.emit_eq]

/-! ### `Runtime.setInitialized` -/

@[simp] theorem Runtime.setInitialized_st (r : Runtime) : r.setInitialized.st = r.st ||| 0b001#3 := rfl
@[simp] theorem Runtime.setInitialized_mode (r : Runtime) : r.setInitialized.mode = r.mode := rfl
@[simp] theorem Runtime.setInitialized_busy (r : Runtime) : r.setInitialized.busy = r.busy := rfl
@[simp] theorem Runtime.setInitialized_dataLost (r : Runtime) : r.setInitialized.dataLost = r.dataLost := rfl
@[simp] theorem Runtime.setInitialized_modeFault (r : Runtime) : r.setInitialized.modeFault = r.modeFault := rfl
@[simp] theorem Runtime.setInitialized_cb (r : Runtime) : r.setInitialized.cb = r.cb := rfl

/-! ### `Runtime.setPowered` -/

@[simp] theorem Runtime.setPowered_st (r : Runtime) : r.setPowered.st = r.st ||| 0b010#3 := rfl
@[simp] theorem Runtime.setPowered_mode (r : Runtime) : r.setPowered.mode = r.mode := rfl
@[simp] theorem Runtime.setPowered_busy (r : Runtime) : r.setPowered.busy = r.busy := rfl
@[simp] theorem Runtime.setPowered_dataLost (r : Runtime) : r.setPowered.dataLost = r.dataLost := rfl
@[simp] theorem Runtime.setPowered_modeFault (r : Runtime) : r.setPowered.modeFault = r.modeFault := rfl
@[simp] theorem Runtime.setPowered_cb (r : Runtime) : r.setPowered.cb = r.cb := rfl

/-! ### `Runtime.clearPowered` -/

@[simp] theorem Runtime.clearPowered_st (r : Runtime) : r.clearPowered.st = r.st &&& 0b101#3 := rfl
@[simp] theorem Runtime.clearPowered_mode (r : Runtime) : r.clearPowered.mode = r.mode := rfl
@[simp] theorem Runtime.clearPowered_busy (r : Runtime) : r.clearPowered.busy = r.busy := rfl
@[simp] theorem Runtime.clearPowered_dataLost (r : Runtime) : r.clearPowered.dataLost = r.dataLost := rfl
@[simp] theorem Runtime.clearPowered_modeFault (r : Runtime) : r.clearPowered.modeFault = r.modeFault := rfl
@[simp] theorem Runtime.clearPowered_cb (r : Runtime) : r.clearPowered.cb = r.cb := rfl

/-! ### `Runtime.setConfigured` -/

@[simp] theorem Runtime.setConfigured_st (r : Runtime) : r.setConfigured.st = r.st ||| 0b100#3 := rfl
@[simp] theorem Runtime.setConfigured_mode (r : Runtime) : r.setConfigured.mode = r.mode := rfl
@[simp] theorem Runtime.setConfigured_busy (r : Runtime) : r.setConfigured.busy = r.busy := rfl
@[simp] theorem Runtime.setConfigured_dataLost (r : Runtime) : r.setConfigured.dataLost = r.dataLost := rfl
@[simp] theorem Runtime.setConfigured_modeFault (r : Runtime) : r.setConfigured.modeFault = r.modeFault := rfl
@[simp] theorem Runtime.setConfigured_cb (r : Runtime) : r.setConfigured.cb = r.cb := rfl

/-! ### `Runtime.clearConfigured` -/

@[simp] theorem Runtime.clearConfigured_st (r : Runtime) : r.clearConfigured.st = r.st &&& 0b011#3 := rfl
@[simp] theorem Runtime.clearConfigured_mode (r : Runtime) : r.clearConfigured.mode = r.mode := rfl
@[simp] theorem Runtime.clearConfigured_busy (r : Runtime) : r.clearConfigured.busy = r.busy := rfl
@[simp] theorem Runtime.clearConfigured_dataLost (r : Runtime) : r.clearConfigured.dataLost = r.dataLost := rfl
@[simp] theorem Runtime.clearConfigured_modeFault (r : Runtime) : r.clearConfigured.modeFault = r.modeFault := rfl
@[simp] theorem Runtime.clearConfigured_cb (r : Runtime) : r.clearConfigured.cb = r.cb := rfl

/-! ### `Runtime.zeroTriple` -/

@[simp] theorem Runtime.zeroTriple_st (r : Runtime) : r.zeroTriple.st = r.st := rfl
@[simp] theorem Runtime.zeroTriple_mode (r : Runtime) : r.zeroTriple.mode = r.mode := rfl
@[simp] theorem Runtime.zeroTriple_busy (r : Runtime) : r.zeroTriple.busy = false := rfl
@[simp] theorem Runtime.zeroTriple_dataLost (r : Runtime) : r.zeroTriple.dataLost = false := rfl
@[simp] theorem Runtime.zeroTriple_modeFault (r : Runtime) : r.zeroTriple.modeFault = false := rfl
@[simp] theorem Runtime.zeroTriple_cb (r : Runtime) : r.zeroTriple.cb = r.cb := rfl

/-! ### `Runtime.acceptTriple` -/

@[simp] theorem Runtime.acceptTriple_st (r : Runtime) : r.acceptTriple.st = r.st := rfl
@[simp] theorem Runtime.acceptTriple_mode (r : Runtime) : r.acceptTriple.mode = r.mode := rfl
@[simp] theorem Runtime.acceptTriple_busy (r : Runtime) : r.acceptTriple.busy = true := rfl
@[simp] theorem Runtime.acceptTriple_dataLost (r : Runtime) : r.acceptTriple.dataLost = false := rfl
@[simp] theorem Runtime.acceptTriple_modeFault (r : Runtime) : r.acceptTriple.modeFault = false := rfl
@[simp] theorem Runtime.acceptTriple_cb (r : Runtime) : r.acceptTriple.cb = r.cb := rfl

/-! ### `Runtime.clearBusy` -/

@[simp] theorem Runtime.clearBusy_st (r : Runtime) : r.clearBusy.st = r.st := rfl
@[simp] theorem Runtime.clearBusy_mode (r : Runtime) : r.clearBusy.mode = r.mode := rfl
@[simp] theorem Runtime.clearBusy_busy (r : Runtime) : r.clearBusy.busy = false := rfl
@[simp] theorem Runtime.clearBusy_dataLost (r : Runtime) : r.clearBusy.dataLost = r.dataLost := rfl
@[simp] theorem Runtime.clearBusy_modeFault (r : Runtime) : r.clearBusy.modeFault = r.modeFault := rfl
@[simp] theorem Runtime.clearBusy_cb (r : Runtime) : r.clearBusy.cb = r.cb := rfl

/-! ### `Runtime.setDataLost` -/

@[simp] theorem Runtime.setDataLost_st (r : Runtime) : r.setDataLost.st = r.st := rfl
@[simp] theorem Runtime.setDataLost_mode (r : Runtime) : r.setDataLost.mode = r.mode := rfl
@[simp] theorem Runtime.setDataLost_busy (r : Runtime) : r.setDataLost.busy = r.busy := rfl
@[simp] theorem Runtime.setDataLost_dataLost (r : Runtime) : r.setDataLost.dataLost = true := rfl
@[simp] theorem Runtime.setDataLost_modeFault (r : Runtime) : r.setDataLost.modeFault = r.modeFault := rfl
@[simp] theorem Runtime.setDataLost_cb (r : Runtime) : r.setDataLost.cb = r.cb := rfl

/-! ### `Spi.drWrite` -/

@[simp] theorem Spi.drWrite_desc (x : Spi) (v : Word) : (x.drWrite v).desc = x.desc := rfl
@[simp] theorem Spi.drWrite_run (x : Spi) (v : Word) : (x.drWrite v).run = x.run := rfl
@[simp] theorem Spi.drWrite_xfer (x : Spi) (v : Word) : (x.drWrite v).xfer = x.xfer := rfl
@[simp] theorem Spi.drWrite_hw (x : Spi) (v : Word) : (x.drWrite v).hw = x.hw := rfl
@[simp] theorem Spi.drWrite_dmaTx (x : Spi) (v : Word) : (x.drWrite v).dmaTx = x.dmaTx := rfl
@[simp] theorem Spi.drWrite_dmaRx (x : Spi) (v : Word) : (x.drWrite v).dmaRx = x.dmaRx := rfl
@[simp] theorem Spi.drWrite_ser (x : Spi) (v : Word) : (x.drWrite v).ser = x.ser := rfl
@[simp] theorem Spi.drWrite_drlog (x : Spi) (v : Word) : (x.drWrite v).drlog = x.drlog ++ [v] := rfl
@[simp] theorem Spi.drWrite_drReads (x : Spi) (v : Word) : (x.drWrite v).drReads = x.drReads := rfl

/-! ### `Spi.drRead` -/

@[simp] theorem Spi.drRead_desc (x : Spi) : (x.drRead).desc = x.desc := rfl
@[simp] theorem Spi.drRead_run (x : Spi) : (x.drRead).run = x.run := rfl
@[simp] theorem Spi.drRead_xfer (x : Spi) : (x.drRead).xfer = x.xfer := rfl
@[simp] theorem Spi.drRead_hw (x : Spi) : (x.drRead).hw = x.hw := rfl
@[simp] theorem Spi.drRead_dmaTx (x : Spi) : (x.drRead).dmaTx = x.dmaTx := rfl
@[simp] theorem Spi.drRead_dmaRx (x : Spi) : (x.drRead).dmaRx = x.dmaRx := rfl
@[simp] theorem Spi.drRead_ser (x : Spi) : (x.drRead).ser = x.ser := rfl
@[simp] theorem Spi.drRead_drlog (x : Spi) : (x.drRead).drlog = x.drlog := rfl
@[simp] theorem Spi.drRead_drReads (x : Spi) : (x.drRead).drReads = x.drReads + 1 := rfl

/-! ### `Spi.clearXfer` -/

@[simp] theorem Spi.clearXfer_desc (x : Spi) : (x.clearXfer).desc = x.desc := rfl
@[simp] theorem Spi.clearXfer_run (x : Spi) : (x.clearXfer).run = x.run := rfl
@[simp] theorem Spi.clearXfer_xfer (x : Spi) : (x.clearXfer).xfer = .cleared := rfl
@[simp] theorem Spi.clearXfer_hw (x : Spi) : (x.clearXfer).hw = x.hw := rfl
@[simp] theorem Spi.clearXfer_dmaTx (x : Spi) : (x.clearXfer).dmaTx = x.dmaTx := rfl
@[simp] theorem Spi.clearXfer_dmaRx (x : Spi) : (x.clearXfer).dmaRx = x.dmaRx := rfl
@[simp] theorem Spi.clearXfer_ser (x : Spi) : (x.clearXfer).ser = x.ser := rfl
@[simp] theorem Spi.clearXfer_drlog (x : Spi) : (x.clearXfer).drlog = x.drlog := rfl
@[simp] theorem Spi.clearXfer_drReads (x : Spi) : (x.clearXfer).drReads = x.drReads := rfl

end Sys2Proof.Machine
end

