-- ==== Sys2Proof/Laws/Table.lean ====
section
/-! SUPPORT. The instance table: reading after writing, and that a write keeps the instance set. -/

namespace Sys2Proof.Machine

theorem findSpi_setSpi_self (l : List (Idx × Spi)) (i : Idx) (x y : Spi) (h : findSpi l i = some y) :
    findSpi (setSpi l i x) i = some x := by
  induction l with
  | nil => simp [findSpi] at h
  | cons p rest ih =>
    obtain ⟨j, z⟩ := p
    by_cases hj : j = i
    · simp [setSpi, findSpi, hj]
    · simp only [setSpi, findSpi, hj, if_false] at h ⊢; exact ih h

theorem findSpi_setSpi_other (l : List (Idx × Spi)) (i j : Idx) (x : Spi) (h : j ≠ i) :
    findSpi (setSpi l i x) j = findSpi l j := by
  induction l with
  | nil => rfl
  | cons p rest ih =>
    obtain ⟨k, z⟩ := p
    by_cases hk : k = i
    · simp [setSpi, findSpi, hk, h.symm]
    · simp only [setSpi, hk, if_false, findSpi, ih]

@[simp] theorem map_fst_setSpi (l : List (Idx × Spi)) (i : Idx) (x : Spi) :
    (setSpi l i x).map Prod.fst = l.map Prod.fst := by
  induction l with
  | nil => rfl
  | cons p rest ih =>
    obtain ⟨k, z⟩ := p
    by_cases hk : k = i <;> simp [setSpi, hk, ih]

theorem mem_of_findSpi (l : List (Idx × Spi)) (i : Idx) (x : Spi) (h : findSpi l i = some x) : (i, x) ∈ l := by
  induction l with
  | nil => simp [findSpi] at h
  | cons p rest ih =>
    obtain ⟨k, z⟩ := p
    by_cases hk : k = i
    · simp [findSpi, hk] at h; simp [hk, h]
    · simp only [findSpi, hk, if_false] at h; exact List.mem_cons_of_mem _ (ih h)

theorem findSpi_eq_none_iff (l : List (Idx × Spi)) (i : Idx) : findSpi l i = none ↔ i ∉ l.map Prod.fst := by
  induction l with
  | nil => simp [findSpi]
  | cons p rest ih =>
    obtain ⟨k, z⟩ := p
    by_cases hk : k = i
    · simp [findSpi, hk]
    · simp only [findSpi, hk, if_false, ih, List.map_cons, List.mem_cons, not_or]
      exact ⟨fun h => ⟨fun e => hk e.symm, h⟩, fun h => h.2⟩

/-- A member of a table after a write is the written instance or a member of the table before. -/
theorem mem_setSpi (l : List (Idx × Spi)) (i : Idx) (x : Spi) (p : Idx × Spi) (h : p ∈ setSpi l i x) :
    p = (i, x) ∨ p ∈ l := by
  induction l with
  | nil => simp [setSpi] at h
  | cons q rest ih =>
    obtain ⟨k, z⟩ := q
    by_cases hk : k = i
    · simp only [setSpi, hk, if_true, List.mem_cons] at h
      rcases h with rfl | h
      · exact .inl rfl
      · exact .inr (List.mem_cons_of_mem _ h)
    · simp only [setSpi, hk, if_false, List.mem_cons] at h
      rcases h with rfl | h
      · exact .inr (List.mem_cons_self)
      · rcases ih h with h | h
        · exact .inl h
        · exact .inr (List.mem_cons_of_mem _ h)

@[simp] theorem State.insts_put (s : State) (i : Idx) (x : Spi) : (s.put i x).insts = s.insts := by
  simp [State.insts]

theorem State.spi?_put_self (s : State) (i : Idx) (x y : Spi) (h : s.spi? i = some y) :
    (s.put i x).spi? i = some x := findSpi_setSpi_self _ _ _ _ h

theorem State.spi?_put_other (s : State) (i j : Idx) (x : Spi) (h : j ≠ i) : (s.put i x).spi? j = s.spi? j :=
  findSpi_setSpi_other _ _ _ _ h

theorem State.spi?_eq_none_iff (s : State) (i : Idx) : s.spi? i = none ↔ i ∉ s.insts := findSpi_eq_none_iff _ _

/-- After a write of instance `i`, the instance read at `j` is the written one or the one before. -/
theorem State.spi?_put_cases (s : State) (i j : Idx) (x y z : Spi) (hx : s.spi? i = some z)
    (h : (s.put i x).spi? j = some y) : (j = i ∧ y = x) ∨ (j ≠ i ∧ s.spi? j = some y) := by
  by_cases hj : j = i
  · subst hj
    rw [State.spi?_put_self s j x z hx] at h
    exact .inl ⟨rfl, (Option.some.inj h).symm⟩
  · rw [State.spi?_put_other s i j x hj] at h
    exact .inr ⟨hj, h⟩

end Sys2Proof.Machine
end

