-- ==== Sys2Proof/Laws/Ops.lean ====
section
/-! SUPPORT. One lemma per shared operation: all it can do when it answers a next state. -/

namespace Sys2Proof.Machine

/-- A host operation that answers: the malformed answer of an absent instance, or its body. -/
theorem command_cases {i : Idx} {s t : State} {body : Spi → State} (h : command i s body = .next t) :
    s.ctx = .foreground ∧
      ((s.spi? i = none ∧ t = s.reply .errorUnsupported) ∨ ∃ x, s.spi? i = some x ∧ t = body x) := by
  unfold command at h
  split at h
  · cases h
  · rename_i hc
    refine ⟨hc, ?_⟩
    split at h
    · rename_i hn; cases h; exact .inl ⟨hn, rfl⟩
    · rename_i x hx; cases h; exact .inr ⟨x, hx, rfl⟩

/-- A host operation on a ready instance runs its body. -/
theorem command_ready {i : Idx} {s : State} {x : Spi} (body : Spi → State) (hc : s.ctx = .foreground)
    (hx : s.spi? i = some x) : command i s body = .next (body x) := by
  simp [command, hc, hx]

/-- A stimulus that is taken: in FOREGROUND, an instance of `Inst`, enabled, its body. -/
theorem stimulus_cases {i : Idx} {s t : State} {en : Spi → Bool} {body : Spi → State}
    (h : stimulus i s en body = .next t) :
    s.ctx = .foreground ∧ ∃ x, s.spi? i = some x ∧ en x = true ∧ t = body x := by
  unfold stimulus at h
  split at h
  · cases h
  · rename_i hc
    refine ⟨hc, ?_⟩
    split at h
    · cases h
    · rename_i x hx
      split at h
      · rename_i he; cases h; exact ⟨x, hx, he, rfl⟩
      · cases h

/-- A stimulus of a ready instance that is enabled runs its body. -/
theorem stimulus_ready {i : Idx} {s : State} {x : Spi} {en : Spi → Bool} (body : Spi → State) (hc : s.ctx = .foreground)
    (hx : s.spi? i = some x) (he : en x = true) : stimulus i s en body = .next (body x) := by
  simp [stimulus, hc, hx, he]

/-- A control code other than abort that answers: absent instance, not POWERED, busy, or its body. -/
theorem controlCall_cases {i : Idx} {s t : State} {body : Spi → State} (h : controlCall i s body = .next t) :
    s.ctx = .foreground ∧
      ((∃ c, c ≠ .ok ∧ t = s.reply c) ∨
        ∃ x, s.spi? i = some x ∧ x.run.powered = true ∧ x.run.busy = false ∧ t = body x) := by
  obtain ⟨hc, ⟨-, rfl⟩ | ⟨x, hx, rfl⟩⟩ := command_cases h
  · exact ⟨hc, .inl ⟨.errorUnsupported, by decide, rfl⟩⟩
  · refine ⟨hc, ?_⟩
    split
    · exact .inl ⟨.error, by decide, rfl⟩
    · split
      · exact .inl ⟨.errorBusy, by decide, rfl⟩
      · exact .inr ⟨x, hx, by simp_all, by simp_all, rfl⟩

/-- A control code other than abort on a ready instance that is POWERED and not busy runs its body. -/
theorem controlCall_ready {i : Idx} {s : State} {x : Spi} (body : Spi → State) (hc : s.ctx = .foreground)
    (hx : s.spi? i = some x) (hp : x.run.powered = true) (hb : x.run.busy = false) :
    controlCall i s body = .next (body x) := by
  simp [controlCall, command, hc, hx, hp, hb]

/-- A transfer call that answers: refused with a code and no other change, or its body with every precondition met. -/
theorem transferCall_cases {i : Idx} {s t : State} {req : List Word} {n : Word} {body : Spi → State}
    (h : transferCall i s req n body = .next t) :
    s.ctx = .foreground ∧
      ((∃ c, c ≠ .ok ∧ t = s.reply c) ∨
        ∃ x, s.spi? i = some x ∧ paramsFail req n = false ∧ x.run.configured = true ∧ x.run.busy = false ∧ t = body x) := by
  obtain ⟨hc, ⟨-, rfl⟩ | ⟨x, hx, rfl⟩⟩ := command_cases h
  · exact ⟨hc, .inl ⟨.errorUnsupported, by decide, rfl⟩⟩
  · refine ⟨hc, ?_⟩
    split
    · exact .inl ⟨.errorParameter, by decide, rfl⟩
    · split
      · exact .inl ⟨.error, by decide, rfl⟩
      · split
        · exact .inl ⟨.errorBusy, by decide, rfl⟩
        · exact .inr ⟨x, hx, by simp_all, by simp_all, by simp_all, rfl⟩

set_option linter.unusedSimpArgs false in
set_option linter.unusedTactic false in
/-- Arming the DMA path (R178, R183): a failure, with each channel as before or configured; or success, with each channel as before or
configured and enabled, the engine enabled, and a kick-start only for a receive. -/
theorem armDma_cases (i : Idx) (n : Word) (dir : Tmod) (x : Spi) (s : State) :
    ∃ calls tx rx,
      ((tx = x.dmaTx ∨ tx = x.dmaTx.configure (txConfig i s.params s.bpu n x.xfer.txBuf)) ∧
        (rx = x.dmaRx ∨ rx = x.dmaRx.configure (rxConfig i s.params s.bpu n x.xfer.rxBuf)) ∧
        armDma i n dir x s = ((s.xcalls calls).put i { x with dmaTx := tx, dmaRx := rx }).reply .error) ∨
      ((tx = x.dmaTx ∨ tx = (x.dmaTx.configure (txConfig i s.params s.bpu n x.xfer.txBuf)).enable) ∧
        (rx = x.dmaRx ∨ rx = (x.dmaRx.configure (rxConfig i s.params s.bpu n x.xfer.rxBuf)).enable) ∧
        ∃ log, (log = x.drlog ∨ (log = x.drlog ++ [dummyWord s.params] ∧ dir = .rxOnly)) ∧
          armDma i n dir x s = { ((s.xcalls calls).put i { x with dmaTx := tx, dmaRx := rx, drlog := log }).reply .ok with
            dmaEngineEn := true }) := by
  have hk : ∀ y : Spi, y.drlog = x.drlog → ∃ log, (log = x.drlog ∨ (log = x.drlog ++ [dummyWord s.params] ∧ dir = .rxOnly)) ∧
      y.kickStart s.params dir = { y with drlog := log } := by
    intro y hy
    unfold Spi.kickStart
    split
    · rename_i h; exact ⟨_, .inr ⟨rfl, h.1⟩, by rw [← hy]; rfl⟩
    · exact ⟨_, .inl rfl, by rw [← hy]⟩
  let ct := x.dmaTx.configure (txConfig i s.params s.bpu n x.xfer.txBuf)
  let cr := x.dmaRx.configure (rxConfig i s.params s.bpu n x.xfer.rxBuf)
  have fail : ∀ tx rx, (configureAll i s.params s.bpu n x).ok = false →
      (configureAll i s.params s.bpu n x).inst = { x with dmaTx := tx, dmaRx := rx } →
      armDma i n dir x s =
        ((s.xcalls (configureAll i s.params s.bpu n x).calls).put i { x with dmaTx := tx, dmaRx := rx }).reply .error := by
    intro tx rx ho hi; simp only [armDma, ho, hi, Bool.false_eq_true, if_false]
  have good : ∀ tx rx, (configureAll i s.params s.bpu n x).ok = true →
      (configureAll i s.params s.bpu n x).inst.enableBound = { x with dmaTx := tx, dmaRx := rx } →
      ∃ log, (log = x.drlog ∨ (log = x.drlog ++ [dummyWord s.params] ∧ dir = .rxOnly)) ∧
        armDma i n dir x s = { ((s.xcalls ((configureAll i s.params s.bpu n x).calls ++ enableCalls i x.desc)).put i
          { x with dmaTx := tx, dmaRx := rx, drlog := log }).reply .ok with dmaEngineEn := true } := by
    intro tx rx ho hi
    obtain ⟨log, hl, e⟩ := hk { x with dmaTx := tx, dmaRx := rx } rfl
    exact ⟨log, hl, by simp only [armDma, ho, hi, e, if_true]⟩
  cases hb : x.desc.dmaTxBound <;> cases hc : x.desc.dmaRxBound <;> cases ht : x.ser.txCfgOk <;> cases hr : x.ser.rxCfgOk <;>
    first
    | (refine ⟨_, x.dmaTx, x.dmaRx, .inl ⟨.inl rfl, .inl rfl, fail _ _ ?_ ?_⟩⟩ <;> (simp [configureAll, Arming.configureTx, Arming.configureRx, Spi.enableBound, *, ct, cr]; done))
    | (refine ⟨_, ct, x.dmaRx, .inl ⟨.inr rfl, .inl rfl, fail _ _ ?_ ?_⟩⟩ <;> (simp [configureAll, Arming.configureTx, Arming.configureRx, Spi.enableBound, *, ct, cr]; done))
    | (refine ⟨_, x.dmaTx, x.dmaRx, .inr ⟨.inl rfl, .inl rfl, good _ _ ?_ ?_⟩⟩ <;> (simp [configureAll, Arming.configureTx, Arming.configureRx, Spi.enableBound, *, ct, cr]; done))
    | (refine ⟨_, x.dmaTx, cr.enable, .inr ⟨.inl rfl, .inr rfl, good _ _ ?_ ?_⟩⟩ <;> (simp [configureAll, Arming.configureTx, Arming.configureRx, Spi.enableBound, *, ct, cr]; done))
    | (refine ⟨_, ct.enable, x.dmaRx, .inr ⟨.inr rfl, .inl rfl, good _ _ ?_ ?_⟩⟩ <;> (simp [configureAll, Arming.configureTx, Arming.configureRx, Spi.enableBound, *, ct, cr]; done))
    | (refine ⟨_, ct.enable, cr.enable, .inr ⟨.inr rfl, .inr rfl, good _ _ ?_ ?_⟩⟩ <;> (simp [configureAll, Arming.configureTx, Arming.configureRx, Spi.enableBound, *, ct, cr]; done))
/-- One invocation of the handler is one of seven things (R217): data lost, drain, receive already complete, write, transmit
already complete, or nothing. -/
theorem handler_cases (i : Idx) (x : Spi) (s : State) :
    handler i x s = (s.put i x.loseData).emit i x.run.cb evDataLost ∨
    (x.xfer.rxBuf ≠ 0 ∧ x.xfer.rxCnt < x.xfer.num ∧ handler i x s = drain i x s) ∨
    handler i x s = s.emit i x.run.cb evDataLost ∨
    (x.xfer.txBuf ≠ 0 ∧ x.xfer.txCnt < x.xfer.num ∧ handler i x s = (s.put i (x.sent s.bpu (txUnit x s))).hold i .afterTx) ∨
    handler i x s = s := by
  unfold handler
  split
  · exact .inl rfl
  · split
    · unfold receiveStep
      split
      · exact .inr (.inr (.inr (.inr rfl)))
      · split
        · exact .inr (.inl ⟨by assumption, by assumption, rfl⟩)
        · exact .inr (.inr (.inl rfl))
    · split
      · rename_i ht
        unfold transmitStep
        have hb : x.xfer.txBuf ≠ 0 := by
          intro e; simp [Spi.transmitReady, e] at ht
        split
        · exact .inr (.inr (.inr (.inl ⟨hb, by assumption, rfl⟩)))
        · exact .inr (.inr (.inl rfl))
      · exact .inr (.inr (.inr (.inr rfl)))

/-- A drain ends in completion, in a filler and the hold, or in neither (R206, R207). -/
theorem drain_cases (i : Idx) (x : Spi) (s : State) :
    ∃ m, m = memWrite s.mem x.drainAddr s.bpu x.ser.drIn ∧
      (drain i x s = (({ s with mem := m } : State).put i (x.drained s.bpu).receiveComplete).emit i x.run.cb evTransferComplete ∨
       drain i x s = (({ s with mem := m } : State).put i ((x.drained s.bpu).drWrite (dummyWord s.params))).hold i .afterFiller ∨
       drain i x s = ({ s with mem := m } : State).put i (x.drained s.bpu)) := by
  refine ⟨_, rfl, ?_⟩
  unfold drain
  dsimp only
  split
  · exact .inl rfl
  · split
    · exact .inr (.inl rfl)
    · exact .inr (.inr rfl)

/-- Phase B ends the transmit, masks TXE, or only returns (R211, R216). -/
theorem phaseB_cases (i : Idx) (k : Cont) (x : Spi) (s : State) :
    phaseB i k x s = ((s.put i x.transmitComplete).emit i x.run.cb evTransferComplete).leaveHandler ∨
    phaseB i k x s = (s.put i { x with hw := x.hw.maskOff srcTxe }).leaveHandler ∨
    phaseB i k x s = s.leaveHandler := by
  cases k with
  | afterFiller => exact .inr (.inr rfl)
  | afterTx =>
    unfold phaseB finishTx
    dsimp only
    split
    · split
      · exact .inl rfl
      · split
        · exact .inr (.inl rfl)
        · exact .inr (.inr rfl)
    · exact .inr (.inr rfl)

/-- A move of a beat that is made: the channel's memory side, the beat allowed, its body. -/
theorem beatMove_cases {c : Channel} {side : DmaCfg → Endpoint} {k : Nat} {data : Word} {s t : State}
    {allowed : DmaCfg → Part → Bool} {body : DmaCfg → Word → State}
    (h : beatMove c side k data s allowed body = .next t) :
    ∃ g base, c.cfg = some g ∧ side g = .mem base ∧ c.mayBeat s.dmaEngineEn g k = true ∧
      allowed g (c.part k data) = true ∧ t = body g base := by
  unfold beatMove at h
  split at h
  · cases h
  · rename_i g hg
    split at h
    · cases h
    · rename_i base hb
      split at h
      · rename_i hm
        rw [Bool.and_eq_true] at hm
        cases h
        exact ⟨g, base, hg, hb, hm.1, hm.2, rfl⟩
      · cases h

/-- A beat of a channel that may move is made. -/
theorem beatMove_ready {c : Channel} {side : DmaCfg → Endpoint} {k : Nat} {data : Word} {s : State}
    {allowed : DmaCfg → Part → Bool} (body : DmaCfg → Word → State) {g : DmaCfg} {base : Word} (hg : c.cfg = some g)
    (hb : side g = .mem base) (hm : c.mayBeat s.dmaEngineEn g k = true) (ha : allowed g (c.part k data) = true) :
    beatMove c side k data s allowed body = .next (body g base) := by
  simp [beatMove, hg, hb, hm, ha]

/-- What has moved of a beat is of that beat, and held, or nothing yet. -/
theorem Channel.part_cases (c : Channel) (k : Nat) (data : Word) :
    (c.part k data ∈ c.flight ∧ (c.part k data).beat = k ∧ (c.flight.any fun p => p.beat == k) = true) ∨
    (c.part k data = { beat := k, data := data, bytes := [] } ∧ (c.flight.any fun p => p.beat == k) = false ∧
      ∀ p ∈ c.flight, p.beat ≠ k) := by
  unfold Channel.part
  cases h : c.flight.find? fun p => p.beat == k with
  | none =>
    have h' := List.find?_eq_none.mp h
    refine .inr ⟨rfl, ?_, fun p hp e => h' p hp (by simp [e])⟩
    simpa [List.any_eq_false] using h'
  | some p =>
    have hp := List.mem_of_find?_eq_some h
    have hk : (p.beat == k) = true := by simpa using List.find?_some (p := fun q : Part => q.beat == k) h
    exact .inl ⟨hp, by simpa using hk, List.any_eq_true.mpr ⟨p, hp, hk⟩⟩

/-! ### What the moves of a beat leave of a channel and of an instance -/

@[simp] theorem Channel.beatDone_cfg (c : Channel) (k : Nat) : (c.beatDone k).cfg = c.cfg := rfl
@[simp] theorem Channel.beatDone_en (c : Channel) (k : Nat) : (c.beatDone k).en = c.en := rfl
@[simp] theorem Channel.beatDone_stale (c : Channel) (k : Nat) : (c.beatDone k).stale = c.stale := rfl
@[simp] theorem Channel.beatDone_done (c : Channel) (k : Nat) : (c.beatDone k).done = k :: c.done := rfl
@[simp] theorem Channel.withPart_cfg (c : Channel) (p : Part) : (c.withPart p).cfg = c.cfg := rfl
@[simp] theorem Channel.withPart_en (c : Channel) (p : Part) : (c.withPart p).en = c.en := rfl
@[simp] theorem Channel.withPart_stale (c : Channel) (p : Part) : (c.withPart p).stale = c.stale := rfl
@[simp] theorem Channel.withPart_done (c : Channel) (p : Part) : (c.withPart p).done = c.done := rfl

/-- Beginning a receive beat changes the read count alone, once for each beat (R66, R81). -/
theorem Spi.beginRx_eq (x : Spi) (k : Nat) :
    x.beginRx k = { x with drReads := x.drReads + if x.dmaRx.flight.any fun p => p.beat == k then 0 else 1 } := by
  unfold Spi.beginRx
  split <;> rfl

/-- Without an environment move among the inputs none is found. -/
theorem firstEnv_eq_none (l : List Input) (h : ∀ e, Input.env e ∉ l) : firstEnv l = none := by
  induction l with
  | nil => rfl
  | cons a rest ih =>
    have ih := ih fun e he => h e (List.mem_cons_of_mem _ he)
    cases a with
    | env e => exact absurd List.mem_cons_self (h e)
    | command f => simp [firstEnv, ih]
    | stimulus f => simp [firstEnv, ih]
    | resume => simp [firstEnv, ih]

/-- The environment move found is the first, and what stands before it waits. -/
theorem firstEnv_append (pre : List Input) (e : EnvMove) (post : List Input) (h : ∀ e', Input.env e' ∉ pre) :
    firstEnv (pre ++ .env e :: post) = some (e, pre ++ post) := by
  induction pre with
  | nil => rfl
  | cons a rest ih =>
    have ih := ih fun e he => h e (List.mem_cons_of_mem _ he)
    cases a with
    | env e => exact absurd List.mem_cons_self (h e)
    | command f => simp [firstEnv, ih]
    | stimulus f => simp [firstEnv, ih]
    | resume => simp [firstEnv, ih]

/-- An environment move that is made is one of eight things. -/
theorem applyEnv_cases {e : EnvMove} {s t : State} (h : applyEnv e s = .next t) :
    (∃ i x ser, s.spi? i = some x ∧ t = s.put i { x with ser := ser }) ∨
    (∃ i x g base k, s.spi? i = some x ∧ x.dmaTx.cfg = some g ∧ g.src = .mem base ∧
      x.dmaTx.mayBeat s.dmaEngineEn g k = true ∧ t = txBeat i x g base k s) ∨
    (∃ i x g base k, s.spi? i = some x ∧ x.dmaRx.cfg = some g ∧ g.dst = .mem base ∧
      x.dmaRx.mayBeat s.dmaEngineEn g k = true ∧ t = rxBeat i x g base k s) ∨
    (∃ i x g base k b, s.spi? i = some x ∧ x.dmaTx.cfg = some g ∧ g.src = .mem base ∧
      x.dmaTx.mayBeat s.dmaEngineEn g k = true ∧ (x.dmaTx.part k 0).mayMove (g.size / 8) b = true ∧
      t = txByte i x g base k b s) ∨
    (∃ i x g base k b, s.spi? i = some x ∧ x.dmaRx.cfg = some g ∧ g.dst = .mem base ∧
      x.dmaRx.mayBeat s.dmaEngineEn g k = true ∧ (x.dmaRx.part k x.ser.drIn).mayMove (g.size / 8) b = true ∧
      t = rxByte i x g base k b s) ∨
    (∃ i x v, s.spi? i = some x ∧ t = s.put i (x.drWrite v)) ∨
    (∃ i x a v, s.spi? i = some x ∧ t = { s.put i x.drRead with mem := writeCell s.mem (a : Word).toNat v }) ∨
    (∃ a b, t = { s with mem := writeCell s.mem (a : Word).toNat b }) := by
  cases e with
  | serial i raw rfne tfnf busy dr =>
    simp only [applyEnv] at h
    split at h
    · cases h
    · rename_i x hx; cases h; exact .inl ⟨i, x, _, hx, rfl⟩
  | configAnswer i tx rx =>
    simp only [applyEnv] at h
    split at h
    · cases h
    · rename_i x hx; cases h; exact .inl ⟨i, x, _, hx, rfl⟩
  | dmaBeat i d k =>
    simp only [applyEnv] at h
    split at h
    · cases h
    · rename_i x hx
      cases d with
      | tx =>
        obtain ⟨g, base, hg, hb, hm, -, rfl⟩ := beatMove_cases (by simpa only [beat] using h)
        exact .inr (.inl ⟨i, x, g, base, k, hx, hg, hb, hm, rfl⟩)
      | rx =>
        obtain ⟨g, base, hg, hb, hm, -, rfl⟩ := beatMove_cases (by simpa only [beat] using h)
        exact .inr (.inr (.inl ⟨i, x, g, base, k, hx, hg, hb, hm, rfl⟩))
  | dmaByte i d k b =>
    simp only [applyEnv] at h
    split at h
    · cases h
    · rename_i x hx
      cases d with
      | tx =>
        obtain ⟨g, base, hg, hb, hm, ha, rfl⟩ := beatMove_cases (by simpa only [beatByte] using h)
        exact .inr (.inr (.inr (.inl ⟨i, x, g, base, k, b, hx, hg, hb, hm, ha, rfl⟩)))
      | rx =>
        obtain ⟨g, base, hg, hb, hm, ha, rfl⟩ := beatMove_cases (by simpa only [beatByte] using h)
        exact .inr (.inr (.inr (.inr (.inl ⟨i, x, g, base, k, b, hx, hg, hb, hm, ha, rfl⟩))))
  | dmaStray i d a v =>
    simp only [applyEnv] at h
    split at h
    · cases h
    · rename_i x hx
      cases d with
      | tx =>
        simp only [stray] at h
        split at h
        · cases h; exact .inr (.inr (.inr (.inr (.inr (.inl ⟨i, x, v, hx, rfl⟩)))))
        · cases h
      | rx =>
        simp only [stray] at h
        split at h
        · cases h; exact .inr (.inr (.inr (.inr (.inr (.inr (.inl ⟨i, x, a, _, hx, rfl⟩))))))
        · cases h
  | busWrite a b => cases h; exact .inr (.inr (.inr (.inr (.inr (.inr (.inr ⟨a, b, rfl⟩))))))

/-- A frame taken from the command port: an instruction of that port, or an answer with no other change. -/
theorem takeCommand_cases {f : Frame} {s t : State} (h : takeCommand f s = .next t) :
    (∃ x, decode .command f = .ok x ∧ exec x s = .next t) ∨ ∃ c, c ≠ .ok ∧ t = s.reply c := by
  unfold takeCommand at h
  split at h
  · rename_i x hx; exact .inl ⟨x, hx, h⟩
  · obtain ⟨-, ⟨-, rfl⟩ | ⟨x, -, rfl⟩⟩ := command_cases h
    · exact .inr ⟨.errorUnsupported, by decide, rfl⟩
    · exact .inr ⟨.errorUnsupported, by decide, rfl⟩
  · obtain ⟨-, ⟨c, hc, rfl⟩ | ⟨x, -, -, -, rfl⟩⟩ := controlCall_cases h
    · exact .inr ⟨c, hc, rfl⟩
    · exact .inr ⟨.errorUnsupported, by decide, rfl⟩
  · cases h; exact .inr ⟨.errorUnsupported, by decide, rfl⟩
  · cases h; exact .inr ⟨.errorUnsupported, by decide, rfl⟩

/-- A step that answers, by what moved: nothing, but for an input passed over, an instruction, an answer to a frame with
no row, the environment, or phase B. -/
theorem step_cases {s t : State} (h : step s = .next t) :
    (∃ rest, t = { s with inputs := rest }) ∨
    (∃ rest x, exec x { s with inputs := rest } = .next t) ∨
    (∃ rest c, c ≠ Status.ok ∧ t = ({ s with inputs := rest } : State).reply c) ∨
    (∃ rest e, applyEnv e { s with inputs := rest } = .next t) ∨
    (∃ i k x rest, s.ctx = .isrWait i k ∧ s.spi? i = some x ∧ x.ser.srBusy = false ∧
      t = phaseB i k x { s with inputs := rest }) := by
  unfold step at h
  split at h
  · unfold foregroundStep at h
    split at h
    · cases h; exact .inl ⟨s.inputs, rfl⟩
    · rename_i f rest _
      obtain ⟨x, -, hx⟩ | ⟨c, hc, rfl⟩ := takeCommand_cases h
      · exact .inr (.inl ⟨rest, x, hx⟩)
      · exact .inr (.inr (.inl ⟨rest, c, hc, rfl⟩))
    · rename_i f rest _
      unfold takeStimulus at h
      split at h
      · rename_i x _; exact .inr (.inl ⟨rest, x, h⟩)
      · cases h
    · rename_i e rest _; exact .inr (.inr (.inr (.inl ⟨rest, e, h⟩)))
    · rename_i rest _; cases h; exact .inl ⟨rest, rfl⟩
  · rename_i i k hc
    unfold waitStep at h
    split at h
    · cases h; exact .inl ⟨s.inputs, rfl⟩
    · rename_i x hx
      split at h
      · split at h
        · cases h; exact .inl ⟨s.inputs, rfl⟩
        · rename_i e rest _; exact .inr (.inr (.inr (.inl ⟨rest, e, h⟩)))
      · cases h; exact .inr (.inr (.inr (.inr ⟨i, k, x, _, hc, hx, by simp_all, rfl⟩)))

end Sys2Proof.Machine
end

