-- ==== Sys2Proof/Laws/Exec.lean ====
section
/-! SUPPORT. All an instruction can do when it answers a next state, one case per outcome, so that a law about every
instruction is a case analysis and no meaning is unfolded again. -/

namespace Sys2Proof.Machine

/-- The effect of an instruction on a state. -/
inductive Effect : Instr → State → State → Prop
  /-- A host operation that only answers: a query, an error, a no-op success. -/
  | answer {c s} (v : Word) (hp : c.port = .command) : Effect c s (s.answer v)
  | initializeOp {s i cb x} (hx : s.spi? i = some x) (h0 : x.run.initialized = false) :
      Effect (.initializeOp i cb) s
        { ((s.xcalls (initCalls i x.desc)).put i (x.initialize' cb)).reply .ok with dmaInit := s.dmaInit || dmaBound x.desc }
  | uninitializeOp {s i x} (hx : s.spi? i = some x) :
      Effect (.uninitializeOp i) s ((s.put i { x with run := .zeroed }).reply .ok)
  | powerOff {s i x} (hx : s.spi? i = some x) : Effect (.powerOff i) s ((s.put i x.powerOff).reply .ok)
  | powerFull {s i x} (hx : s.spi? i = some x) (h0 : x.run.initialized = true) :
      Effect (.powerFull i) s (((s.xcalls [.clockEnable i x.desc.tag]).put i x.powerFull).reply .ok)
  | modeInactive {s i x} (hx : s.spi? i = some x) :
      Effect (.ctlModeInactive i) s ((s.put i { x with run := x.run.inactiveRole.clearConfigured }).reply .ok)
  | modeMaster {s i x ff bits order ssm v} (hx : s.spi? i = some x) (hp : x.run.powered = true)
      (hv : masterChecks x.desc s.slaveNo ff bits order ssm = none) :
      Effect (.ctlModeMaster i ff bits order ssm v) s
        { (s.put i ((x.commitMode (modeWord roleMaster ff bits 0 ssm 0) ff bits).setSpeed v)).reply .ok with
          bpu := widthToBytes bits }
  | modeSlave {s i x ff bits order sss} (hx : s.spi? i = some x) (hp : x.run.powered = true)
      (hv : slaveChecks x.desc ff bits order = none) :
      Effect (.ctlModeSlave i ff bits order sss) s
        { (s.put i (x.commitMode (modeWord roleSlave ff bits 0 0 sss) ff bits)).reply .ok with bpu := widthToBytes bits }
  | setBusSpeed {s i x v} (hx : s.spi? i = some x) : Effect (.ctlSetBusSpeed i v) s ((s.put i (x.setSpeed v)).reply .ok)
  | setDefault {s i x v} (hx : s.spi? i = some x) :
      Effect (.ctlSetDefaultTxValue i v) s ((s.put i { x with xfer := { x.xfer with defVal := v } }).reply .ok)
  | controlSs {s i x v} (hx : s.spi? i = some x) (b : Bool) :
      Effect (.ctlControlSs i v) s ((s.put i (x.driveSs s.slaveNo b)).reply .ok)
  | abort {s i x} (hx : s.spi? i = some x) :
      Effect (.ctlAbortTransfer i) s ((s.put i { x.clearXfer with run := x.run.clearBusy }).reply .ok)
  /-- An accepted transfer call. -/
  | send {s i x a n} (hx : s.spi? i = some x) (hf : paramsFail [a] n = false) (hc : x.run.configured = true) :
      Effect (.send i a n) s (accept i a 0 n .txOnly x s)
  | receive {s i x a n} (hx : s.spi? i = some x) (hf : paramsFail [a] n = false) (hc : x.run.configured = true) :
      Effect (.receive i a n) s (accept i 0 a n .rxOnly x s)
  | transfer {s i x a b n} (hx : s.spi? i = some x) (hf : paramsFail [a, b] n = false) (hc : x.run.configured = true) :
      Effect (.transfer i a b n) s (accept i a b n .txRx x s)
  | irq {s i x} (hx : s.spi? i = some x) : Effect (.irq i) s (handler i x s)
  /-- Transmit-done, with or without its event. -/
  | dmaTxDone {s i x m} (hx : s.spi? i = some x) (hm : m = 0 ∨ m = evTransferComplete) :
      Effect (.dmaTxDone i) s ((s.put i x.txDone).emit i x.run.cb m)
  | dmaRxDone {s i x} (hx : s.spi? i = some x) :
      Effect (.dmaRxDone i) s ((s.put i (x.rxDone.deassertSs s.slaveNo)).emit i x.run.cb evTransferComplete)
  | dmaTxError {s i k x} (hx : s.spi? i = some x) :
      Effect (.dmaTxError i k) s (s.put i { x with dmaTx := x.dmaTx.delivered })
  | dmaRxError {s i k x} (hx : s.spi? i = some x) :
      Effect (.dmaRxError i k) s (s.put i { x with dmaRx := x.dmaRx.delivered })

/-- What an instruction does when it answers: it was taken in FOREGROUND, and its effect is one of the above. -/
theorem exec_effect {c : Instr} {s t : State} (h : exec c s = .next t) : s.ctx = .foreground ∧ Effect c s t := by
  cases c with
  | initializeOp i cb =>
    obtain ⟨hc, ⟨-, rfl⟩ | ⟨x, hx, rfl⟩⟩ := command_cases h
    · exact ⟨hc, .answer _ rfl⟩
    · refine ⟨hc, ?_⟩
      split
      · exact .answer _ rfl
      · exact .initializeOp hx (by simp_all)
  | uninitializeOp i =>
    obtain ⟨hc, ⟨-, rfl⟩ | ⟨x, hx, rfl⟩⟩ := command_cases h
    · exact ⟨hc, .answer _ rfl⟩
    · exact ⟨hc, .uninitializeOp hx⟩
  | powerOff i =>
    obtain ⟨hc, ⟨-, rfl⟩ | ⟨x, hx, rfl⟩⟩ := command_cases h
    · exact ⟨hc, .answer _ rfl⟩
    · exact ⟨hc, .powerOff hx⟩
  | powerLow i =>
    obtain ⟨hc, ⟨-, rfl⟩ | ⟨x, hx, rfl⟩⟩ := command_cases h
    · exact ⟨hc, .answer _ rfl⟩
    · exact ⟨hc, .answer _ rfl⟩
  | powerFull i =>
    obtain ⟨hc, ⟨-, rfl⟩ | ⟨x, hx, rfl⟩⟩ := command_cases h
    · exact ⟨hc, .answer _ rfl⟩
    · refine ⟨hc, ?_⟩
      split
      · exact .answer _ rfl
      · split
        · exact .answer _ rfl
        · exact .powerFull hx (by simp_all)
  | ctlModeInactive i =>
    obtain ⟨hc, ⟨c, -, rfl⟩ | ⟨x, hx, -, -, rfl⟩⟩ := controlCall_cases h
    · exact ⟨hc, .answer _ rfl⟩
    · exact ⟨hc, .modeInactive hx⟩
  | ctlModeMaster i ff bits order ssm v =>
    obtain ⟨hc, ⟨c, -, rfl⟩ | ⟨x, hx, hp, -, rfl⟩⟩ := controlCall_cases h
    · exact ⟨hc, .answer _ rfl⟩
    · refine ⟨hc, ?_⟩
      split
      · exact .answer _ rfl
      · exact .modeMaster hx hp ‹_›
  | ctlModeSlave i ff bits order sss =>
    obtain ⟨hc, ⟨c, -, rfl⟩ | ⟨x, hx, hp, -, rfl⟩⟩ := controlCall_cases h
    · exact ⟨hc, .answer _ rfl⟩
    · refine ⟨hc, ?_⟩
      split
      · exact .answer _ rfl
      · exact .modeSlave hx hp ‹_›
  | ctlSetBusSpeed i v =>
    obtain ⟨hc, ⟨c, -, rfl⟩ | ⟨x, hx, -, -, rfl⟩⟩ := controlCall_cases h
    · exact ⟨hc, .answer _ rfl⟩
    · exact ⟨hc, .setBusSpeed hx⟩
  | ctlGetBusSpeed i =>
    obtain ⟨hc, ⟨c, -, rfl⟩ | ⟨x, -, -, -, rfl⟩⟩ := controlCall_cases h
    · exact ⟨hc, .answer _ rfl⟩
    · exact ⟨hc, .answer _ rfl⟩
  | ctlSetDefaultTxValue i v =>
    obtain ⟨hc, ⟨c, -, rfl⟩ | ⟨x, hx, -, -, rfl⟩⟩ := controlCall_cases h
    · exact ⟨hc, .answer _ rfl⟩
    · exact ⟨hc, .setDefault hx⟩
  | ctlControlSs i v =>
    obtain ⟨hc, ⟨c, -, rfl⟩ | ⟨x, hx, -, -, rfl⟩⟩ := controlCall_cases h
    · exact ⟨hc, .answer _ rfl⟩
    · refine ⟨hc, ?_⟩
      split
      · exact .answer _ rfl
      · exact .controlSs hx _
  | ctlAbortTransfer i =>
    obtain ⟨hc, ⟨-, rfl⟩ | ⟨x, hx, rfl⟩⟩ := command_cases h
    · exact ⟨hc, .answer _ rfl⟩
    · refine ⟨hc, ?_⟩
      split
      · exact .answer _ rfl
      · exact .abort hx
  | send i a n =>
    obtain ⟨hc, ⟨c, -, rfl⟩ | ⟨x, hx, hf, hg, -, rfl⟩⟩ := transferCall_cases h
    · exact ⟨hc, .answer _ rfl⟩
    · exact ⟨hc, .send hx hf hg⟩
  | receive i a n =>
    obtain ⟨hc, ⟨c, -, rfl⟩ | ⟨x, hx, hf, hg, -, rfl⟩⟩ := transferCall_cases h
    · exact ⟨hc, .answer _ rfl⟩
    · exact ⟨hc, .receive hx hf hg⟩
  | transfer i a b n =>
    obtain ⟨hc, ⟨c, -, rfl⟩ | ⟨x, hx, hf, hg, -, rfl⟩⟩ := transferCall_cases h
    · exact ⟨hc, .answer _ rfl⟩
    · exact ⟨hc, .transfer hx hf hg⟩
  | getDataCount i =>
    obtain ⟨hc, ⟨-, rfl⟩ | ⟨x, -, rfl⟩⟩ := command_cases h
    · exact ⟨hc, .answer _ rfl⟩
    · exact ⟨hc, .answer _ rfl⟩
  | getStatus i =>
    obtain ⟨hc, ⟨-, rfl⟩ | ⟨x, -, rfl⟩⟩ := command_cases h
    · exact ⟨hc, .answer _ rfl⟩
    · exact ⟨hc, .answer _ rfl⟩
  | irq i =>
    obtain ⟨hc, x, hx, -, rfl⟩ := stimulus_cases h
    exact ⟨hc, .irq hx⟩
  | dmaTxDone i =>
    obtain ⟨hc, x, hx, -, rfl⟩ := stimulus_cases h
    refine ⟨hc, ?_⟩
    split
    · exact .dmaTxDone hx (.inr rfl)
    · have e : s.put i x.txDone = (s.put i x.txDone).emit i x.run.cb 0 := by simp [State.emit]
      rw [e]
      exact .dmaTxDone hx (.inl rfl)
  | dmaTxError i k =>
    obtain ⟨hc, x, hx, -, rfl⟩ := stimulus_cases h
    exact ⟨hc, .dmaTxError hx⟩
  | dmaRxDone i =>
    obtain ⟨hc, x, hx, -, rfl⟩ := stimulus_cases h
    exact ⟨hc, .dmaRxDone hx⟩
  | dmaRxError i k =>
    obtain ⟨hc, x, hx, -, rfl⟩ := stimulus_cases h
    exact ⟨hc, .dmaRxError hx⟩

/-- An accepted transfer call: on the interrupt path the direction's sources are unmasked; on the DMA path the channels are
configured, and on success enabled (R177, R183, R186). -/
theorem accept_cases (i : Idx) (tb rb n : Word) (dir : Tmod) (x : Spi) (s : State) :
    (dmaBound x.desc = false ∧ accept i tb rb n dir x s =
      (s.put i { x.accept tb rb n s.bpu dir with hw := (x.accept tb rb n s.bpu dir).hw.unmask dir.sources }).reply .ok) ∨
    (dmaBound x.desc = true ∧ accept i tb rb n dir x s = armDma i n dir (x.accept tb rb n s.bpu dir) s) := by
  unfold accept
  cases h : dmaBound x.desc
  · exact .inl ⟨rfl, rfl⟩
  · exact .inr ⟨rfl, rfl⟩

/-- After a step that writes instance `i`, what is read at `j`: the written instance, or the one before. -/
theorem spi?_after_write {s t : State} {i j : Idx} {w z x y : Spi} (ht : t.spis = setSpi s.spis i z)
    (hw : s.spi? i = some w) (hx : s.spi? j = some x) (hy : t.spi? j = some y) :
    (j = i ∧ x = w ∧ y = z) ∨ (j ≠ i ∧ y = x) := by
  have hy' : (s.put i z).spi? j = some y := by simpa [State.spi?, ht] using hy
  rcases State.spi?_put_cases s i j z y w hw hy' with ⟨rfl, rfl⟩ | ⟨h, h'⟩
  · rw [hw] at hx; cases hx; exact .inl ⟨rfl, rfl, rfl⟩
  · rw [hx] at h'; cases h'; exact .inr ⟨h, rfl⟩

/-- A step that writes no instance leaves every one. -/
theorem spi?_of_same {s t : State} {j : Idx} {x y : Spi} (ht : t.spis = s.spis) (hx : s.spi? j = some x)
    (hy : t.spi? j = some y) : y = x := by
  simp only [State.spi?, ht] at hy hx
  rw [hx] at hy
  cases hy
  rfl

/-- What an invocation of the handler leaves of an instance: the same, or one of five forms of its own instance. -/
theorem spi?_handler {i j : Idx} {w x y : Spi} {s : State} (hw : s.spi? i = some w) (hx : s.spi? j = some x)
    (hy : (handler i w s).spi? j = some y) :
    y = x ∨ (j = i ∧ x = w ∧ (y = x.loseData ∨ y = (x.drained s.bpu).receiveComplete ∨
      y = (x.drained s.bpu).drWrite (dummyWord s.params) ∨ y = x.drained s.bpu ∨ y = x.sent s.bpu (txUnit x s))) := by
  have key : ∀ (t : State) (z : Spi), handler i w s = t → t.spis = setSpi s.spis i z →
      y = x ∨ (j = i ∧ x = w ∧ y = z) := by
    intro t z e ht
    rw [e] at hy
    rcases spi?_after_write ht hw hx hy with h | h
    · exact .inr h
    · exact .inl h.2
  rcases handler_cases i w s with e | ⟨-, -, e⟩ | e | ⟨-, -, e⟩ | e
  · rcases key _ w.loseData e (by simp) with h | ⟨rfl, rfl, rfl⟩ <;> simp [*]
  · obtain ⟨m, -, f | f | f⟩ := drain_cases i w s
    · rcases key _ _ (e.trans f) (by simp; rfl) with h | ⟨rfl, rfl, rfl⟩ <;> simp [*]
    · rcases key _ _ (e.trans f) (by simp; rfl) with h | ⟨rfl, rfl, rfl⟩ <;> simp [*]
    · rcases key _ _ (e.trans f) (by simp; rfl) with h | ⟨rfl, rfl, rfl⟩ <;> simp [*]
  · rw [e] at hy; exact .inl (spi?_of_same (by simp) hx hy)
  · rcases key _ _ e (by simp; rfl) with h | ⟨rfl, rfl, rfl⟩ <;> simp [*]
  · rw [e] at hy; exact .inl (spi?_of_same rfl hx hy)

/-- Receive-done changes of the hardware registers the slave-select lines only (R234). -/
theorem Spi.deassertSs_eq (x : Spi) (k : Fin 4) :
    x.deassertSs k = { x with hw := { x.hw with ssActive := (x.deassertSs k).hw.ssActive } } := by
  unfold Spi.deassertSs
  split <;> rfl

end Sys2Proof.Machine
end

