-- ==== Sys2Proof/Laws/Memory.lean ====
section
/-! SUPPORT. Host memory: reading after writing, and that every write keeps the canonical form. -/

namespace Sys2Proof.Machine

theorem Memory.wfFrom_mono (m : List Host.Cell) (lo lo' : Nat) (h : lo' ≤ lo) (hm : Memory.wfFrom lo m = true) :
    Memory.wfFrom lo' m = true := by
  cases m with
  | nil => rfl
  | cons p rest =>
    obtain ⟨k, b⟩ := p
    simp only [Memory.wfFrom, Bool.and_eq_true, decide_eq_true_eq] at hm ⊢
    exact ⟨⟨⟨by omega, hm.1.1.2⟩, hm.1.2⟩, hm.2⟩

/-- Below its first address a canonical memory reads the default. -/
theorem readCell_of_lt (m : List Host.Cell) (lo a : Nat) (hm : Memory.wfFrom lo m = true) (h : a < lo) :
    readCell m a = memDefault := by
  induction m generalizing lo with
  | nil => rfl
  | cons p rest ih =>
    obtain ⟨k, b⟩ := p
    simp only [Memory.wfFrom, Bool.and_eq_true, decide_eq_true_eq] at hm
    have : k ≠ a := by omega
    simp only [readCell, this, if_false]
    exact ih (k + 1) hm.2 (by omega)

theorem readCell_consCell (rest : List Host.Cell) (a c : Nat) (b : Byte) (hr : readCell rest a = memDefault ∨ b ≠ memDefault) :
    readCell (consCell a b rest) c = if c = a then b else readCell rest c := by
  unfold consCell
  by_cases hb : b = memDefault
  · by_cases hc : c = a
    · simp_all
    · simp [hb, hc]
  · by_cases hc : c = a
    · simp [hb, hc, readCell]
    · have : a ≠ c := fun e => hc e.symm
      simp [hb, hc, readCell, this]

/-- The write law from any lower bound. -/
theorem readCell_writeCell_from (m : List Host.Cell) (lo a c : Nat) (b : Byte) (hm : Memory.wfFrom lo m = true) :
    readCell (writeCell m a b) c = if c = a then b else readCell m c := by
  induction m generalizing lo with
  | nil => exact readCell_consCell [] a c b (.inl rfl)
  | cons p rest ih =>
    obtain ⟨k, d⟩ := p
    have hk : Memory.wfFrom k ((k, d) :: rest) = true := by
      simp only [Memory.wfFrom, Bool.and_eq_true, decide_eq_true_eq] at hm ⊢
      exact ⟨⟨⟨Nat.le_refl _, hm.1.1.2⟩, hm.1.2⟩, hm.2⟩
    simp only [Memory.wfFrom, Bool.and_eq_true, decide_eq_true_eq] at hm
    unfold writeCell
    split
    · rename_i hlt
      exact readCell_consCell _ a c b (.inl (readCell_of_lt _ k a hk hlt))
    · split
      · rename_i _ heq
        subst heq
        rw [readCell_consCell _ a c b (.inl (readCell_of_lt _ (a + 1) a hm.2 (by omega)))]
        by_cases hc : c = a
        · simp [hc]
        · have : a ≠ c := fun e => hc e.symm
          simp [hc, readCell, this]
      · rename_i _ hne
        simp only [readCell]
        by_cases hkc : k = c
        · subst hkc
          have : k ≠ a := fun e => hne e.symm
          simp [this]
        · simp only [hkc, if_false]
          exact ih (k + 1) hm.2

/-- The write law: the written address reads the written byte, every other address as before. -/
theorem readCell_writeCell (m : List Host.Cell) (a c : Nat) (b : Byte) (hm : Memory.wf m = true) :
    readCell (writeCell m a b) c = if c = a then b else readCell m c := readCell_writeCell_from m 0 a c b hm

/-- An address that is not the written one reads as before, canonical or not. -/
theorem readCell_writeCell_other (m : List Host.Cell) (a c : Nat) (b : Byte) (h : c ≠ a) :
    readCell (writeCell m a b) c = readCell m c := by
  have hc : ∀ rest : List Host.Cell, readCell (consCell a b rest) c = readCell rest c := by
    intro rest
    unfold consCell
    split
    · rfl
    · simp [readCell, h.symm]
  induction m with
  | nil => exact hc []
  | cons p rest ih =>
    obtain ⟨k, d⟩ := p
    unfold writeCell
    split
    · exact hc _
    · split
      · rename_i _ heq
        subst heq
        rw [hc]
        simp [readCell, h.symm]
      · simp only [readCell, ih]

theorem wfFrom_consCell (rest : List Host.Cell) (lo a : Nat) (b : Byte) (hlo : lo ≤ a) (ha : a < 2 ^ 32)
    (hr : Memory.wfFrom (a + 1) rest = true) : Memory.wfFrom lo (consCell a b rest) = true := by
  unfold consCell
  split
  · exact Memory.wfFrom_mono rest (a + 1) lo (by omega) hr
  · rename_i hb
    simp only [Memory.wfFrom, Bool.and_eq_true, decide_eq_true_eq]
    exact ⟨⟨⟨hlo, ha⟩, by simpa using hb⟩, hr⟩

theorem wfFrom_writeCell (m : List Host.Cell) (lo a : Nat) (b : Byte) (hm : Memory.wfFrom lo m = true) (hlo : lo ≤ a)
    (ha : a < 2 ^ 32) : Memory.wfFrom lo (writeCell m a b) = true := by
  induction m generalizing lo with
  | nil => exact wfFrom_consCell [] lo a b hlo ha rfl
  | cons p rest ih =>
    obtain ⟨k, d⟩ := p
    simp only [Memory.wfFrom, Bool.and_eq_true, decide_eq_true_eq] at hm
    unfold writeCell
    split
    · refine wfFrom_consCell _ lo a b hlo ha ?_
      simp only [Memory.wfFrom, Bool.and_eq_true, decide_eq_true_eq]
      exact ⟨⟨⟨by omega, hm.1.1.2⟩, hm.1.2⟩, hm.2⟩
    · split
      · rename_i _ heq
        subst heq
        exact wfFrom_consCell _ lo a b hlo ha hm.2
      · simp only [Memory.wfFrom, Bool.and_eq_true, decide_eq_true_eq]
        exact ⟨⟨⟨hm.1.1.1, hm.1.1.2⟩, hm.1.2⟩, ih (k + 1) hm.2 (by omega)⟩

/-- A byte write keeps the canonical form. -/
theorem wf_writeCell (m : List Host.Cell) (a : Word) (b : Byte) (hm : Memory.wf m = true) :
    Memory.wf (writeCell m a.toNat b) = true := wfFrom_writeCell m 0 _ b hm (Nat.zero_le _) a.isLt

/-- A unit write keeps the canonical form. -/
theorem wf_memWrite (m : List Host.Cell) (a : Word) (n : Nat) (v : Word) (hm : Memory.wf m = true) :
    Memory.wf (memWrite m a n v) = true := by
  induction n generalizing m a v with
  | zero => exact hm
  | succ n ih => exact ih _ _ _ (wf_writeCell m a _ hm)

/-- A byte outside the unit reads as before. -/
theorem readCell_memWrite_other (m : List Host.Cell) (a : Word) (n : Nat) (v b : Word)
    (h : ∀ k < n, b ≠ a + BitVec.ofNat 32 k) : readCell (memWrite m a n v) b.toNat = readCell m b.toNat := by
  induction n generalizing m a v with
  | zero => rfl
  | succ n ih =>
    rw [memWrite, ih]
    · refine readCell_writeCell_other m _ _ _ fun e => h 0 (by omega) ?_
      rw [BitVec.eq_of_toNat_eq e]; simp
    · intro k hk e
      refine h (k + 1) (by omega) ?_
      rw [e]; apply BitVec.eq_of_toNat_eq; simp; omega

/-- A unit of which no byte has been read before is `MemRead`. -/
@[simp] theorem memFetch_nil (m : List Host.Cell) (a : Word) (n b : Nat) : memFetch m [] a n b = memRead m a n := by
  induction n generalizing a b with
  | zero => rfl
  | succ n ih => simp [memFetch, memRead, ih]

/-- A unit of which no byte has been stored before is `MemWrite`. -/
@[simp] theorem memStore_nil (m : List Host.Cell) (a : Word) (n b : Nat) (v : Word) :
    memStore m [] a n b v = memWrite m a n v := by
  induction n generalizing m a b v with
  | zero => rfl
  | succ n ih => simp [memStore, memWrite, ih]

/-- Storing the rest of a unit keeps the canonical form. -/
theorem wf_memStore (m : List Host.Cell) (bytes : List (Nat × Byte)) (a : Word) (n b : Nat) (v : Word)
    (hm : Memory.wf m = true) : Memory.wf (memStore m bytes a n b v) = true := by
  induction n generalizing m a b v with
  | zero => exact hm
  | succ n ih =>
    refine ih _ _ _ _ ?_
    split
    · exact hm
    · exact wf_writeCell m a _ hm

/-- A byte outside the unit reads as before. -/
theorem readCell_memStore_other (m : List Host.Cell) (bytes : List (Nat × Byte)) (a : Word) (n i : Nat) (v b : Word)
    (h : ∀ k < n, b ≠ a + BitVec.ofNat 32 k) : readCell (memStore m bytes a n i v) b.toNat = readCell m b.toNat := by
  induction n generalizing m a i v with
  | zero => rfl
  | succ n ih =>
    rw [memStore, ih]
    · split
      · rfl
      · refine readCell_writeCell_other m _ _ _ fun e => h 0 (by omega) ?_
        rw [BitVec.eq_of_toNat_eq e]; simp
    · intro k hk e
      refine h (k + 1) (by omega) ?_
      rw [e]; apply BitVec.eq_of_toNat_eq; simp; omega

end Sys2Proof.Machine
end

