-- ==== Sys2Proof/Laws/PerInstr.lean ====
section
/-! SUPPORT. The families of statements made of every instruction as syntax, one lemma per constructor. -/

namespace Sys2Proof.Laws.CommandWord

/-- The command word of an instruction's encoding: `CMD[31:16] = 0`, `INST` the instance it names, and an `OP` of the
command port (at most 9) exactly when it is an operation (30_encoding.md R91, R92). -/
def Statement (x : Instr) : Prop :=
  (encode x).zero = 0 ∧ (encode x).inst = x.idx ∧ (x.port = .command ↔ (encode x).op.toNat ≤ 9)

theorem of_command (x : Instr) (op : BitVec 8) (h : (encode x).cmd = cmdWord op x.idx) (hp : x.port = .command)
    (ho : op.toNat ≤ 9) : Statement x := by
  simp only [Statement, Frame.zero, Frame.inst, Frame.op, h, zero_cmdWord, inst_cmdWord, op_cmdWord]
  exact ⟨trivial, trivial, fun _ => ho, fun _ => hp⟩

theorem of_stimulus (x : Instr) (op : BitVec 8) (h : (encode x).cmd = cmdWord op x.idx) (hp : x.port = .stimulus)
    (ho : 9 < op.toNat) : Statement x := by
  simp only [Statement, Frame.zero, Frame.inst, Frame.op, h, zero_cmdWord, inst_cmdWord, op_cmdWord]
  refine ⟨trivial, trivial, fun e => ?_, fun e => absurd e (by omega)⟩
  rw [hp] at e
  cases e

theorem initializeOp (i : Idx) (cb : Word) : Statement (.initializeOp i cb) := of_command _ 0x01 rfl rfl (by decide)
theorem uninitializeOp (i : Idx) : Statement (.uninitializeOp i) := of_command _ 0x02 rfl rfl (by decide)
theorem powerOff (i : Idx) : Statement (.powerOff i) := of_command _ 0x03 rfl rfl (by decide)
theorem powerLow (i : Idx) : Statement (.powerLow i) := of_command _ 0x03 rfl rfl (by decide)
theorem powerFull (i : Idx) : Statement (.powerFull i) := of_command _ 0x03 rfl rfl (by decide)
theorem ctlModeInactive (i : Idx) : Statement (.ctlModeInactive i) := of_command _ 0x04 rfl rfl (by decide)
theorem ctlModeMaster (i : Idx) (ff : BitVec 4) (bits : BitVec 6) (order : BitVec 1) (ssm : BitVec 2) (speed : Word) :
    Statement (.ctlModeMaster i ff bits order ssm speed) := of_command _ 0x04 rfl rfl (by decide)
theorem ctlModeSlave (i : Idx) (ff : BitVec 4) (bits : BitVec 6) (order : BitVec 1) (sss : BitVec 1) :
    Statement (.ctlModeSlave i ff bits order sss) := of_command _ 0x04 rfl rfl (by decide)
theorem ctlSetBusSpeed (i : Idx) (speed : Word) : Statement (.ctlSetBusSpeed i speed) :=
  of_command _ 0x04 rfl rfl (by decide)
theorem ctlGetBusSpeed (i : Idx) : Statement (.ctlGetBusSpeed i) := of_command _ 0x04 rfl rfl (by decide)
theorem ctlSetDefaultTxValue (i : Idx) (value : Word) : Statement (.ctlSetDefaultTxValue i value) :=
  of_command _ 0x04 rfl rfl (by decide)
theorem ctlControlSs (i : Idx) (active : Word) : Statement (.ctlControlSs i active) :=
  of_command _ 0x04 rfl rfl (by decide)
theorem ctlAbortTransfer (i : Idx) : Statement (.ctlAbortTransfer i) := of_command _ 0x04 rfl rfl (by decide)
theorem send (i : Idx) (buffer count : Word) : Statement (.send i buffer count) :=
  of_command _ 0x05 rfl rfl (by decide)
theorem receive (i : Idx) (buffer count : Word) : Statement (.receive i buffer count) :=
  of_command _ 0x06 rfl rfl (by decide)
theorem transfer (i : Idx) (tx rx count : Word) : Statement (.transfer i tx rx count) :=
  of_command _ 0x07 rfl rfl (by decide)
theorem getDataCount (i : Idx) : Statement (.getDataCount i) := of_command _ 0x08 rfl rfl (by decide)
theorem getStatus (i : Idx) : Statement (.getStatus i) := of_command _ 0x09 rfl rfl (by decide)
theorem irq (i : Idx) : Statement (.irq i) := of_stimulus _ 0x10 rfl rfl (by decide)
theorem dmaTxDone (i : Idx) : Statement (.dmaTxDone i) := of_stimulus _ 0x11 rfl rfl (by decide)
theorem dmaTxError (i : Idx) (kind : Word) : Statement (.dmaTxError i kind) := of_stimulus _ 0x11 rfl rfl (by decide)
theorem dmaRxDone (i : Idx) : Statement (.dmaRxDone i) := of_stimulus _ 0x12 rfl rfl (by decide)
theorem dmaRxError (i : Idx) (kind : Word) : Statement (.dmaRxError i kind) := of_stimulus _ 0x12 rfl rfl (by decide)

end Sys2Proof.Laws.CommandWord
end

