-- ==== Sys2Proof/Tests/Slice0.lean ====
section
/-! SUPPORT. The model's own tests: expected results are the vectors of 95_test_vectors.md (cited by their number),
and a witness for the hypotheses of each statement. -/

namespace Sys2Proof.Tests

open Sys2Proof.Machine

/-! ### Helpers -/

/-- The next state of an outcome. -/
def after (o : Host.Outcome State Fault Refusal) : Option State :=
  match o with
  | .next t => some t
  | .fault _ => none
  | .refused _ => none

/-- The refusal of an outcome. -/
def refusalOf (o : Host.Outcome State Fault Refusal) : Option Refusal :=
  match o with
  | .next _ => none
  | .fault _ => none
  | .refused r => some r

/-- The return word after an instruction. -/
def retOf (c : Instr) (s : State) : Option Word := (after (exec c s)).map State.ret

/-- Something of an instance after an instruction. -/
def got {α : Type} (c : Instr) (s : State) (i : Idx) (f : Spi → α) : Option α :=
  ((after (exec c s)).bind fun t => t.spi? i).map f

/-- Something of the state after an instruction. -/
def of {α : Type} (c : Instr) (s : State) (f : State → α) : Option α := (after (exec c s)).map f

/-- The reference instances after reset. -/
def m0 : Spi := .reset (Config.refDesc .master true false)
def s1 : Spi := .reset (Config.refDesc .slave false false)
def u2 : Spi := .reset (Config.refDesc .ulpMaster false true)

/-- An instance with the given lifecycle bits and a callback. -/
def up (x : Spi) (st : BitVec 3) : Spi := { x with run := { x.run with st := st, cb := 0x1100 }, hw := { x.hw with irqEn := true } }

/-- A busy instance. -/
def busy (x : Spi) : Spi := { x with run := { x.run with busy := true } }

/-- The reset state with instance `i` replaced, and a unit size. -/
def at' (i : Idx) (x : Spi) (bpu : Nat) : State := { State.reset.put i x with bpu := bpu }

/-- An instance with transfer, mask and serial inputs in place, for the handler. -/
def pump (x : Spi) (f : Xfer) (tmod : Tmod) (imr raw : BitVec 5) (rfne tfnf : Bool) (dr : Word) : Spi :=
  { busy (up x 0b111) with
    xfer := f
    hw := { x.hw with irqEn := true, tmod := tmod, imr := imr }
    ser := { x.ser with raw := raw, srRfne := rfne, srTfnf := tfnf, drIn := dr } }

/-- Instance 2 in a transfer of T22's shape, its channels as given. -/
def transferring (tx rx : Channel) : Spi :=
  { pump u2 { Xfer.reset with txBuf := 0x2000, rxBuf := 0x3000, num := 6 } .txRx 0 0 false false 0x5AA5 with
    dmaTx := tx, dmaRx := rx }

/-- An enabled channel with the beats of `done` performed. -/
def doneChannel (cfg : DmaCfg) (done : List Nat) : Channel :=
  { cfg := some cfg, en := true, done := done, flight := [], stale := false }

/-! ### Well-formedness -/

theorem test_wf_refuses_tx_error_of_kind_zero : Instr.wf [0, 1, 2] (.dmaTxError 2 0) = false := by decide
theorem test_wf_refuses_rx_error_of_kind_zero : Instr.wf [0, 1, 2] (.dmaRxError 2 0) = false := by decide
theorem test_wf_refuses_absent_member : Instr.wf [0, 1, 2] (.getStatus 3) = false := by decide
theorem test_wf_accepts : Instr.wf [0, 1, 2] (.dmaTxError 2 1) = true := by decide

/-! ### Decoding: the words of 95_test_vectors.md 2.1 -/

theorem test_decode_lifecycle :
    decode .command ⟨0x00000001, 0x00001100, 0, 0⟩ = .ok (.initializeOp 0 0x1100) ∧
    decode .command ⟨0x00000102, 0, 0, 0⟩ = .ok (.uninitializeOp 1) ∧
    decode .command ⟨0x00000203, 0, 0, 0⟩ = .ok (.powerOff 2) ∧
    decode .command ⟨0x00000003, 1, 0, 0⟩ = .ok (.powerLow 0) ∧
    decode .command ⟨0x00000003, 2, 0, 0⟩ = .ok (.powerFull 0) := by decide

/-- The control word bit by bit: SSM 2, ORDER 0, BITS 12, FF 2, CODE 1 (R97). -/
theorem test_decode_mode_master :
    decode .command ⟨0b0000000000000000_00000000_00000100, 0b0000000000_0_10_0_001100_0010_00000001, 0x003D0900, 0⟩ =
      .ok (.ctlModeMaster 0 2 12 0 2 4000000) ∧
    decode .command ⟨0x00000004, 0xFFC88001, 0, 0⟩ = .ok (.ctlModeMaster 0 0 8 0 1 0) := by decide

theorem test_decode_mode_slave :
    decode .command ⟨0x00000104, 0b0000000000_1_00_0_010000_0100_00000010, 0, 0⟩ = .ok (.ctlModeSlave 1 4 16 0 1) := by
  decide

theorem test_decode_control :
    decode .command ⟨0x00000004, 0x00000000, 0, 0⟩ = .ok (.ctlModeInactive 0) ∧
    decode .command ⟨0x00000004, 0x00000010, 0x0007A120, 0⟩ = .ok (.ctlSetBusSpeed 0 500000) ∧
    decode .command ⟨0x00000004, 0x00000011, 0, 0⟩ = .ok (.ctlGetBusSpeed 0) ∧
    decode .command ⟨0x00000004, 0x00000012, 0x000000A5, 0⟩ = .ok (.ctlSetDefaultTxValue 0 0xA5) ∧
    decode .command ⟨0x00000004, 0x00000013, 1, 0⟩ = .ok (.ctlControlSs 0 1) ∧
    decode .command ⟨0x00000004, 0x00000014, 0, 0⟩ = .ok (.ctlAbortTransfer 0) := by decide

theorem test_decode_transfer :
    decode .command ⟨0x00000005, 0x00002000, 4, 0⟩ = .ok (.send 0 0x2000 4) ∧
    decode .command ⟨0x00000106, 0x00004000, 2, 0⟩ = .ok (.receive 1 0x4000 2) ∧
    decode .command ⟨0x00000007, 0x00002000, 0x00003000, 2⟩ = .ok (.transfer 0 0x2000 0x3000 2) ∧
    decode .command ⟨0x00000008, 0, 0, 0⟩ = .ok (.getDataCount 0) ∧
    decode .command ⟨0x00000209, 0, 0, 0⟩ = .ok (.getStatus 2) := by decide

theorem test_decode_stimuli :
    decode .stimulus ⟨0x00000110, 0, 0, 0⟩ = .ok (.irq 1) ∧
    decode .stimulus ⟨0x00000211, 0, 0, 0⟩ = .ok (.dmaTxDone 2) ∧
    decode .stimulus ⟨0x00000211, 1, 0, 0⟩ = .ok (.dmaTxError 2 1) ∧
    decode .stimulus ⟨0x00000212, 0, 0, 0⟩ = .ok (.dmaRxDone 2) ∧
    decode .stimulus ⟨0x00000212, 1, 0, 0⟩ = .ok (.dmaRxError 2 1) := by decide

theorem test_decode_rejects :
    decode .command ⟨0x00000003, 7, 0, 0⟩ = .error (.powerState 0 7) ∧
    decode .command ⟨0x00000004, 0x20, 0, 0⟩ = .error (.controlCode 0 0x20) ∧
    decode .command ⟨0x00010005, 0, 0, 0⟩ = .error .zeroField ∧
    decode .command ⟨0x0000000A, 0, 0, 0⟩ = .error (.reservedOp 0x0A) ∧
    decode .command ⟨0x00000010, 0, 0, 0⟩ = .error (.reservedOp 0x10) := by decide

/-- The host's fetch word runs as the first instruction after reset. -/
theorem test_fetch_word_runs :
    after (step (State.reset.withFetchWord 64 0x0000110000000001)) = after (exec (.initializeOp 0 0x1100) State.reset) := by
  decide

theorem test_fetch_word_of_a_stimulus :
    refusalOf (step (State.reset.withFetchWord 64 0x0000000000000211)) = some .stimulusNotEnabled := by decide

/-! ### Lifecycle -/

/-- L1. -/
theorem test_initialize_L1 : got (.initializeOp 0 0x1100) .reset 0 (fun x => (x.run.st, x.run.cb, x.hw.pinsCfg)) =
      some (0b001, 0x1100, true) ∧
    of (.initializeOp 0 0x1100) .reset (fun t => (t.ret, t.xlog, t.dmaInit)) = some (0, [.pinConfig 0 .fullSet], false) := by
  decide

/-- L2. -/
theorem test_initialize_L2 : of (.initializeOp 2 0x1300) .reset (fun t => (t.xlog, t.dmaInit)) =
    some ([.pinConfig 2 .reducedSet, .dmaInit], true) := by decide

/-- The state of L12. -/
def l12 : State :=
  at' 0 { m0 with
    run := { st := 0b111, mode := 0x007001, busy := true, dataLost := true, modeFault := false, cb := 0x1100 }
    xfer := { txBuf := 0x2000, rxBuf := 0, num := 4, txCnt := 2, rxCnt := 0, defVal := 0 }
    hw := { m0.hw with imr := 0b00011, hwEn := true, irqEn := true, clkEn := true } } 1

/-- L16. -/
theorem test_uninitialize_L16 :
    got (.uninitializeOp 0) l12 0 (fun x => (x.run == Runtime.reset, x.xfer.txBuf, x.xfer.txCnt, x.hw.imr, x.hw.irqEn, x.hw.hwEn)) =
      some (true, 0x2000, 2, 0b00011, true, true) := by decide

/-- L12. -/
theorem test_power_off_L12 :
    got (.powerOff 0) l12 0 (fun x => (x.run.st, x.run.busy, x.run.dataLost, x.run.mode, x.xfer == Xfer.reset)) =
      some (0b101, false, false, 0x007001, true) ∧
    got (.powerOff 0) l12 0 (fun x => (x.hw.hwEn, x.hw.irqEn, x.hw.imr, x.hw.clkEn, x.run.cb)) =
      some (false, false, 0b00011, true, 0x1100) := by decide

/-- L10. -/
theorem test_power_low_L10 : retOf (.powerLow 0) (at' 0 (up m0 0b011) 0) = some (BitVec.ofInt 32 (-4)) := by decide

/-- L7. -/
theorem test_power_full_L7 : retOf (.powerFull 0) .reset = some (BitVec.ofInt 32 (-1)) := by decide

/-- L8. -/
theorem test_power_full_L8 :
    got (.powerFull 0) (at' 0 { m0 with run := { m0.run with st := 0b001 } } 0) 0 (fun x => (x.run.st, x.hw.clkEn, x.hw.irqEn)) =
      some (0b011, true, true) ∧
    of (.powerFull 0) (at' 0 { m0 with run := { m0.run with st := 0b001 } } 0) (fun t => (t.ret, t.xlog)) =
      some (0, [.clockEnable 0 .master]) := by decide

/-! ### Control -/

/-- C2, its control word 0x00020301. -/
theorem test_mode_master_C2 :
    got (.ctlModeMaster 0 3 32 0 0 8000000) (at' 0 (up m0 0b011) 1) 0
      (fun x => (x.run.mode, x.run.st, x.hw.dfs, x.hw.cpol, x.hw.cpha, x.hw.baudReq)) =
      some (0x020301, 0b111, 32, true, true, 8000000) ∧
    of (.ctlModeMaster 0 3 32 0 0 8000000) (at' 0 (up m0 0b011) 1) (fun t => (t.ret, t.bpu)) = some (0, 4) := by decide

/-- C9 and C14. -/
theorem test_mode_master_C9_C14 :
    retOf (.ctlModeMaster 0 0 8 0 1 0) { at' 0 (up m0 0b011) 0 with slaveNo := 1 } = some (BitVec.ofInt 32 (-10)) ∧
    retOf (.ctlModeMaster 0 0 8 1 0 0) (at' 0 (up m0 0b011) 0) = some (BitVec.ofInt 32 (-9)) := by decide

/-- C17. -/
theorem test_mode_slave_C17 :
    got (.ctlModeSlave 1 3 8 0 1) (at' 1 (up s1 0b011) 0) 1 (fun x => (x.run.mode, x.run.st, x.hw.cpol, x.hw.cpha, x.hw.imr)) =
      some (0x208302, 0b111, true, true, 0) := by decide

/-- C4 and C15. -/
theorem test_mode_slave_C4_C15 :
    retOf (.ctlModeSlave 1 0 17 0 0) (at' 1 (up s1 0b011) 0) = some (BitVec.ofInt 32 (-8)) ∧
    retOf (.ctlModeSlave 0 15 3 1 0) (at' 0 (up m0 0b011) 0) = some (BitVec.ofInt 32 (-6)) := by decide

/-- C21. -/
theorem test_mode_inactive_C21 :
    got (.ctlModeInactive 0) (at' 0 { up m0 0b111 with run := { m0.run with st := 0b111, mode := 0x088001 } } 2) 0
      (fun x => (x.run.st, x.run.mode)) = some (0b011, 0x088000) := by decide

/-- L14 and program P4 step 8. -/
theorem test_set_bus_speed_checks :
    retOf (.ctlSetBusSpeed 0 1) (at' 0 (up m0 0b101) 1) = some (BitVec.ofInt 32 (-1)) ∧
    retOf (.ctlSetBusSpeed 1 1) (at' 1 (busy (up s1 0b111)) 2) = some (BitVec.ofInt 32 (-2)) := by decide

theorem test_set_bus_speed_records :
    got (.ctlSetBusSpeed 0 500000) (at' 0 (up m0 0b011) 0) 0 (fun x => x.hw.baudReq) = some 500000 := by decide

/-- C20, whatever `BAUD_ACTUAL` is. -/
theorem test_get_bus_speed_C20 :
    retOf (.ctlGetBusSpeed 0) (at' 0 ((up m0 0b111).setSpeed 1000000) 2) = some (Config.baudActual 1000000) := rfl

/-- C23. -/
theorem test_set_default_C23 :
    got (.ctlSetDefaultTxValue 0 0xA5) (at' 0 (up m0 0b111) 2) 0 (fun x => x.xfer.defVal) = some 0xA5 := by decide

/-- A master with the software policy. -/
def softMaster : Spi := { up m0 0b111 with run := { (up m0 0b111).run with mode := 0x088001 } }

/-- C25. -/
theorem test_control_ss_C25 :
    got (.ctlControlSs 0 1) (at' 0 softMaster 2) 0 (fun x => x.hw.ssActive) = some #v[true, false, false, false] := by decide

/-- Not the software policy: `ERROR` (R163). -/
theorem test_control_ss_other_policy :
    retOf (.ctlControlSs 0 1) (at' 0 (up m0 0b111) 2) = some (BitVec.ofInt 32 (-1)) := by decide

/-- L12's state aborted: program P4 step 11 has the same shape. -/
theorem test_abort :
    got (.ctlAbortTransfer 0) l12 0 (fun x => (x.run.busy, x.run.dataLost, x.xfer == Xfer.reset, x.hw.imr)) =
      some (false, true, true, 0b00011) := by decide

/-! ### Transfer dispatch and queries -/

/-- T9. -/
theorem test_send_T9 :
    got (.send 0 0x2000 4) (at' 0 (up m0 0b111) 2) 0 (fun x => (x.xfer, x.hw.tmod, x.hw.hwEn, x.hw.imr, x.run.busy)) =
      some ({ txBuf := 0x2000, rxBuf := 0, num := 8, txCnt := 0, rxCnt := 0, defVal := 0 }, .txOnly, true, 0b00011, true) := by
  decide

/-- T16 and T11. -/
theorem test_send_T16_T11 :
    got (.send 0 0x2000 0x40000001) (at' 0 (up m0 0b111) 4) 0 (fun x => x.xfer.num) = some 4 ∧
    retOf (.send 0 0 0) (at' 0 (busy (up m0 0b111)) 2) = some (BitVec.ofInt 32 (-5)) := by decide

/-- T21. -/
theorem test_receive_T21 :
    got (.receive 2 0x3000 1024) (at' 2 (up u2 0b111) 2) 2 (fun x => (x.xfer.num, x.drlog, x.dmaTx.en, x.dmaRx.en)) =
      some (2048, [0xFF], true, true) ∧
    got (.receive 2 0x3000 1024) (at' 2 (up u2 0b111) 2) 2 (fun x => (x.dmaTx.cfg, x.dmaRx.cfg)) =
      some (some { size := 16, src := .mem 0x1000, dst := .dr 2, srcInc := .fixed, dstInc := .fixed, arb := 0, beats := 1023 },
        some { size := 16, src := .dr 2, dst := .mem 0x3000, srcInc := .fixed, dstInc := .inc, arb := 0, beats := 1023 }) := by
  decide

/-- T12: no kick-start in interrupt mode. -/
theorem test_receive_T12 :
    got (.receive 0 0x3000 3) (at' 0 (up m0 0b111) 2) 0 (fun x => (x.xfer.num, x.hw.imr, x.drlog)) = some (6, 0b11100, []) := by
  decide

/-- T24: the receive configure call fails. -/
theorem test_transfer_configure_failure_T24 :
    got (.send 2 0x2000 10) (at' 2 { up u2 0b111 with ser := { u2.ser with rxCfgOk := false } } 2) 2
      (fun x => (x.run.busy, x.dmaTx.cfg.isSome, x.dmaTx.en, x.dmaRx.cfg.isSome, x.hw.hwEn)) =
      some (true, true, false, false, true) := by decide

/-- T13. -/
theorem test_transfer_T13 :
    got (.transfer 0 0x2000 0x2000 1) (at' 0 (up m0 0b111) 2) 0 (fun x => (x.xfer.num, x.hw.tmod, x.hw.imr)) =
      some (2, .txRx, 0b11111) := by decide

/-- S11. -/
theorem test_get_data_count_S11 :
    retOf (.getDataCount 0) (at' 0 { up m0 0b011 with xfer := { Xfer.reset with rxCnt := 7 } } 1) = some 0 ∧
    retOf (.getDataCount 0) (at' 0 { up m0 0b111 with xfer := { Xfer.reset with rxCnt := 7 } } 1) = some 7 := by decide

/-- The return word checks of 2.1. -/
theorem test_get_status_word :
    retOf (.getStatus 0) l12 = some 3 ∧ retOf (.getStatus 0) (at' 0 (busy (up m0 0b111)) 1) = some 1 := by decide

/-! ### The handler -/

/-- H4: an overflow preempts. -/
theorem test_irq_H4 :
    got (.irq 0) (at' 0 (pump m0 { Xfer.reset with txBuf := 0x2000, rxBuf := 0x3000, num := 4 } .txRx 0b11111 0b01111 true true 0) 2) 0
      (fun x => (x.ser.raw, x.run.dataLost, x.run.busy, x.xfer.txCnt, x.xfer.rxCnt)) = some (0b00001, true, true, 0, 0) ∧
    of (.irq 0) (at' 0 (pump m0 { Xfer.reset with txBuf := 0x2000, rxBuf := 0x3000, num := 4 } .txRx 0b11111 0b01111 true true 0) 2)
      State.evlog = some [⟨0, 0x1100, 2⟩] := by decide

/-- H12: a drain on a master with no transmit buffer writes a filler and holds. -/
theorem test_irq_H12 :
    of (.irq 0) (at' 0 (pump m0 { Xfer.reset with rxBuf := 0x3000, num := 3 } .rxOnly 0b11100 0b10000 true false 0x123456A1) 1)
      (fun t => (t.mem, t.ctx, t.evlog)) = some ([(0x3000, 0xA1)], .isrWait 0 .afterFiller, []) ∧
    got (.irq 0) (at' 0 (pump m0 { Xfer.reset with rxBuf := 0x3000, num := 3 } .rxOnly 0b11100 0b10000 true false 0x123456A1) 1) 0
      (fun x => (x.xfer.rxCnt, x.drlog)) = some (1, [0xFF]) := by decide

/-- H15: a 4-byte unit, low byte first, completes. -/
theorem test_irq_H15 :
    of (.irq 0) (at' 0 (pump m0 { Xfer.reset with rxBuf := 0x3000, num := 8, rxCnt := 4 } .rxOnly 0b11100 0b10000 true false
        0xDEADBEEF) 4) (fun t => (t.mem, t.evlog)) =
      some ([(0x3004, 0xEF), (0x3005, 0xBE), (0x3006, 0xAD), (0x3007, 0xDE)], [⟨0, 0x1100, 1⟩]) ∧
    got (.irq 0) (at' 0 (pump m0 { Xfer.reset with rxBuf := 0x3000, num := 8, rxCnt := 4 } .rxOnly 0b11100 0b10000 true false
        0xDEADBEEF) 4) 0 (fun x => (x.xfer.rxCnt, x.hw.imr, x.run.busy)) = some (8, 0b01100, false) := by decide

/-- The state of H6, and of H9 with another direction. -/
def h6 (tmod : Tmod) (imr : BitVec 5) : State :=
  { at' 0 (pump m0 { Xfer.reset with txBuf := 0x2000, num := 4, txCnt := 2 } tmod imr 0b00001 false true 0) 2 with
    mem := [(0x2002, 0x33), (0x2003, 0x44)] }

/-- H6, phase A. -/
theorem test_irq_H6_phase_a :
    got (.irq 0) (h6 .txOnly 0b00011) 0 (fun x => (x.drlog, x.xfer.txCnt)) = some ([0x00004433], 4) ∧
    of (.irq 0) (h6 .txOnly 0b00011) State.ctx = some (.isrWait 0 .afterTx) := by decide

/-- H6, phase B. -/
theorem test_phase_b_H6 :
    (((after (exec (.irq 0) (h6 .txOnly 0b00011))).bind fun t => after (step t)).bind fun t =>
      (t.spi? 0).map fun x => (t.ctx, t.evlog, x.hw.imr, x.run.busy)) =
      some (.foreground, [⟨0, 0x1100, 1⟩], 0b00010, false) := by decide

/-- H10: `P_TX_MASK = ALWAYS`. -/
theorem test_phase_b_H10 :
    (((after (exec (.irq 0) { h6 .txRx 0b11111 with params := { Config.refParams with pTxMask := .always } })).bind fun t =>
      after (step t)).bind fun t => (t.spi? 0).map fun x => (t.evlog, x.hw.imr, x.run.busy)) =
      some ([], 0b11110, true) := by decide

/-- H8: the busy flag rises after the write, before phase B; the wait goes on, and a command frame waits. -/
theorem test_phase_b_H8 :
    (((after (exec (.irq 0) { h6 .txOnly 0b00011 with
        inputs := [.env (.serial 0 0 false true true 0), .command ⟨9, 0, 0, 0⟩] })).bind fun t => after (step t)).bind fun t =>
      (after (step t)).map fun u => (t.ctx, u == t, t.inputs)) =
      some (.isrWait 0 .afterTx, true, [.command ⟨9, 0, 0, 0⟩]) := by decide

/-- H3: not enabled. -/
theorem test_irq_H3 :
    refusalOf (exec (.irq 0) (at' 0 { m0 with hw := { m0.hw with imr := 0b00011 }, ser := { m0.ser with raw := 0b00001 } } 2)) =
      some .stimulusNotEnabled := by decide

/-! ### DMA completion -/

/-- The channel configs of T22, with a count of 3. -/
def t22Tx : DmaCfg :=
  { size := 16, src := .mem 0x2000, dst := .dr 2, srcInc := .inc, dstInc := .fixed, arb := 0, beats := 3 }
def t22Rx : DmaCfg :=
  { size := 16, src := .dr 2, dst := .mem 0x3000, srcInc := .fixed, dstInc := .inc, arb := 0, beats := 3 }

/-- Instance 2 after T22, every beat done, out of order, a slave-select line active (D11). -/
def t22 (tmod : Tmod) : State :=
  { at' 2 { pump u2 { Xfer.reset with txBuf := 0x2000, rxBuf := 0x3000, num := 6 } tmod 0 0 false false 0x5A with
      dmaTx := doneChannel t22Tx [1, 2, 0]
      dmaRx := doneChannel t22Rx [2, 0, 1]
      hw := { u2.hw with tmod := tmod, irqEn := true, ssActive := #v[true, false, false, false] } } 2 with
    dmaEngineEn := true }

/-- D1: TX_ONLY raises the event. -/
theorem test_dma_tx_done_D1 :
    of (.dmaTxDone 2) (t22 .txOnly) State.evlog = some [⟨2, 0x1100, 1⟩] ∧
    got (.dmaTxDone 2) (t22 .txOnly) 2 (fun x => (x.dmaTx.en, x.xfer.txCnt, x.run.busy)) = some (false, 6, false) := by decide

/-- D2: TX_RX does not. -/
theorem test_dma_tx_done_D2 : of (.dmaTxDone 2) (t22 .txRx) State.evlog = some [] := by decide

/-- D3 and D11. -/
theorem test_dma_rx_done_D3 :
    of (.dmaRxDone 2) (t22 .txRx) State.evlog = some [⟨2, 0x1100, 1⟩] ∧
    got (.dmaRxDone 2) (t22 .txRx) 2 (fun x => (x.xfer.rxCnt, x.run.busy, x.hw.ssActive)) =
      some (6, false, #v[false, false, false, false]) := by decide

/-- D6. -/
theorem test_dma_tx_error_D6 :
    got (.dmaTxError 2 1) (t22 .txRx) 2 (fun x => (x.dmaTx.en, x.run.busy, x.xfer.txCnt)) = some (false, true, 0) := by decide

/-- D7. -/
theorem test_dma_rx_error_D7 :
    got (.dmaRxError 2 1) (t22 .txRx) 2 (fun x => (x.dmaRx.en, x.run.busy, x.xfer.rxCnt)) = some (false, true, 0) := by decide

/-- D9. -/
theorem test_dma_tx_done_D9 : refusalOf (exec (.dmaTxDone 2) (at' 2 (up u2 0b111) 2)) = some .stimulusNotEnabled := by decide

/-- Something of instance 2 and of memory after an environment move of a state whose DMA engine is enabled. -/
def moved {α : Type} (e : EnvMove) (x : Spi) (mem : List Host.Cell) (f : Spi → α) : Option (α × List Host.Cell) :=
  (after (step { at' 2 x 2 with dmaEngineEn := true, mem := mem, inputs := [.env e] })).bind fun t =>
    (t.spi? 2).map fun y => (f y, t.mem)

/-- R81: the last beat may come first; its unit is at `base + 2*2`. -/
theorem test_dma_beat_any_order :
    moved (.dmaBeat 2 .tx 2) (transferring (doneChannel t22Tx []) (doneChannel t22Rx [])) [(0x2004, 0xAA), (0x2005, 0xBB)]
      (fun y => (y.drlog, y.dmaTx.done)) = some (([0xBBAA], [2]), [(0x2004, 0xAA), (0x2005, 0xBB)]) := by decide

/-- R69: byte 0 was read before the unit 0x4422 was stored; the beat sees it half-written. -/
theorem test_dma_beat_sees_torn_unit :
    moved (.dmaBeat 2 .tx 0) (transferring { doneChannel t22Tx [] with flight := [⟨0, 0, [(0, 0x11)]⟩] } (doneChannel t22Rx []))
      [(0x2000, 0x22), (0x2001, 0x44)] (fun y => (y.drlog, y.dmaTx.flight)) =
      some (([0x4411], []), [(0x2000, 0x22), (0x2001, 0x44)]) := by decide

/-- R69: byte 1 of receive beat 1 is stored alone; the data register is read once, and the rest of the beat stores byte 0 of
what was read then. -/
theorem test_dma_byte_stores_half_a_unit :
    moved (.dmaByte 2 .rx 1 1) (transferring (doneChannel t22Tx []) (doneChannel t22Rx [])) [(0x3003, 0x99)]
      (fun y => (y.drReads, y.dmaRx.flight)) = some ((1, [⟨1, 0x5AA5, [(1, 0x5A)]⟩]), [(0x3003, 0x5A)]) ∧
    moved (.dmaBeat 2 .rx 1) (transferring (doneChannel t22Tx []) { doneChannel t22Rx [] with flight := [⟨1, 0x1234, [(1, 0x12)]⟩] })
      [(0x3003, 0x77)] (fun y => (y.drReads, y.dmaRx.done)) = some ((0, [1]), [(0x3002, 0x34), (0x3003, 0x77)]) := by decide

/-! ### Memory -/

/-- M1 and M2. -/
theorem test_memory_M1_M2 :
    memRead [(0x2000, 0x78), (0x2001, 0x56), (0x2002, 0x34), (0x2003, 0x12)] 0x2000 4 = 0x12345678 ∧
    memWrite [(0x3002, 0x77)] 0x3000 2 0xDEADBEEF = [(0x3000, 0xEF), (0x3001, 0xBE), (0x3002, 0x77)] := by decide

/-- M4: addresses wrap. -/
theorem test_memory_M4 :
    memWrite [] 0xFFFFFFFE 4 0x44332211 = [(0, 0x33), (1, 0x44), (0xFFFFFFFE, 0x11), (0xFFFFFFFF, 0x22)] ∧
    memRead [(0, 0x33), (1, 0x44), (0xFFFFFFFE, 0x11), (0xFFFFFFFF, 0x22)] 0xFFFFFFFE 4 = 0x44332211 := by decide

/-- Writing what an unlisted address reads as removes the entry (log 2). -/
theorem test_memory_canonical : memWrite [(0x3000, 0x77)] 0x3000 1 0 = [] := by decide

/-! ### Witnesses: the hypotheses of each statement can be met -/

/-- An instance that is ready in `at' i x bpu`. -/
theorem ready_m0 (x : Spi) (bpu : Nat) : Ready (at' 0 x bpu) 0 x := ⟨rfl, rfl⟩
theorem ready_s1 (x : Spi) (bpu : Nat) : Ready (at' 1 x bpu) 1 x := ⟨rfl, rfl⟩
theorem ready_u2 (x : Spi) (bpu : Nat) : Ready (at' 2 x bpu) 2 x := ⟨rfl, rfl⟩

theorem witness_ResetStateAsTabulated : State.reset.spi? 0 = some m0 ∧ State.reset.spi? 2 = some u2 := ⟨rfl, rfl⟩

/-- A step of a state that meets the invariant and is not the reset state. -/
theorem witness_EveryStepKeepsInvariant :
    (at' 0 (up m0 0b011) 0).inv = true ∧
    ∃ t, step { at' 0 (up m0 0b011) 0 with inputs := [.command ⟨0x00000004, 0x00007001, 0x000F4240, 0⟩] } = .next t ∧
      t.bpu = 1 := ⟨by decide, _, rfl, by decide⟩

theorem witness_DecodeOfEncodeIsIdentity :
    (Instr.dmaTxError 0 1).kindOk = true ∧ (Instr.dmaRxError 255 0xFFFFFFFF).kindOk = true := by decide

theorem witness_DecoderFollowsOpcodeTable :
    (∃ r ∈ opcodeTable, r.accepts (Frame.mk 0x00000212 1 0 0).decodeWord = true) ∧
    decode .stimulus ⟨0x00000212, 1, 0, 0⟩ = .ok (.dmaRxError 2 1) := by decide

theorem witness_StepRunsDecodedInstruction :
    ({ State.reset with inputs := [.present .command ⟨0x00000001, 0x1100, 0, 0⟩] } : State).ctx = .foreground ∧
    decode .command ⟨0x00000001, 0x1100, 0, 0⟩ = .ok (.initializeOp 0 0x1100) ∧
    decode .stimulus ⟨0x00000110, 0, 0, 0⟩ = .ok (.irq 1) := by decide

/-- One frame for each clause: ZERO = 1, instance 3, OP 0 and OP 10. -/
theorem witness_MalformedCommandFrameUnsupported :
    (0x00010005#32).extractLsb' 16 16 ≠ 0 ∧ (0x00000305#32).extractLsb' 8 8 ∉ State.reset.insts ∧
    (0x00000000#32).extractLsb' 0 8 = 0 ∧ 9 < ((0x0000000A#32).extractLsb' 0 8).toNat ∧
    after (step { State.reset with inputs := [.command ⟨0x00010005, 0, 0, 0⟩] }) =
      some { State.reset with ret := 0xFFFFFFFC } := by decide

/-- State number 3, and control codes 3, 0x0F and 0x15 beside the listed ones. -/
theorem witness_UnlistedFramesUnsupported :
    Ready (at' 0 (up m0 0b011) 1) ((0x00000003#32).extractLsb' 8 8) (up m0 0b011) ∧ (3 : Word) ≠ 2 ∧
    (0x00000004#32).extractLsb' 0 8 = 4 ∧
    (0x03#32).extractLsb' 0 8 ∉ ([0x00, 0x01, 0x02, 0x10, 0x11, 0x12, 0x13, 0x14] : List (BitVec 8)) ∧
    (0x0F#32).extractLsb' 0 8 ∉ ([0x00, 0x01, 0x02, 0x10, 0x11, 0x12, 0x13, 0x14] : List (BitVec 8)) ∧
    (0x15#32).extractLsb' 0 8 ∉ ([0x00, 0x01, 0x02, 0x10, 0x11, 0x12, 0x13, 0x14] : List (BitVec 8)) :=
  ⟨⟨rfl, rfl⟩, by decide⟩

/-- A spin-wait of a busy instance with a frame presented: without, and with, an environment move behind it. -/
theorem witness_SpinWaitTakesOnlyEnvironmentMoves :
    (∃ x : Spi, x.ser.srBusy = true ∧
      ({ at' 0 x 1 with ctx := .isrWait 0 .afterTx } : State).spi? 0 = some x ∧
      (∀ e, Input.env e ∉ [Input.command ⟨9, 0, 0, 0⟩]) ∧
      [Input.command ⟨9, 0, 0, 0⟩] ++ [Input.env (.busWrite 0 0)] = [.command ⟨9, 0, 0, 0⟩, .env (.busWrite 0 0)]) ∧
    (∃ x : Spi, x.ser.srBusy = false ∧
      ({ at' 0 x 1 with ctx := .isrWait 0 .afterTx, inputs := [.env (.serial 0 0 false false true 0)] } : State).spi? 0 =
        some x) :=
  ⟨⟨{ m0 with ser := { m0.ser with srBusy := true } }, rfl, rfl, by simp, rfl⟩, ⟨m0, rfl, rfl⟩⟩

theorem witness_OperationsNeedForegroundAndInstance :
    ({ State.reset with ctx := .isrWait 0 .afterTx } : State).ctx = .isrWait 0 .afterTx ∧
    State.reset.ctx = .foreground ∧ (Instr.getStatus 3).idx ∉ State.reset.insts ∧ (Instr.getStatus 3).port = .command ∧
    (Instr.irq 255).idx ∉ State.reset.insts ∧ (Instr.irq 255).port = .stimulus := by decide

theorem witness_StepKeepsLaunchParameters :
    ∃ t, step { State.reset with inputs := [.command ⟨0x00000001, 0x1100, 0, 0⟩] } = .next t ∧
      (∃ x y, State.reset.spi? 0 = some x ∧ t.spi? 0 = some y ∧ y ≠ x) :=
  ⟨_, rfl, m0, _, rfl, rfl, by decide⟩

theorem witness_StepOnlyAppendsToLogs :
    ∃ t, step { State.reset with inputs := [.command ⟨0x00000201, 0x1300, 0, 0⟩] } = .next t ∧ t.xlog.length = 2 :=
  ⟨_, rfl, by decide⟩

theorem witness_InitializeIsIdempotent :
    Ready (at' 0 (up m0 0b001) 0) 0 (up m0 0b001) ∧ (up m0 0b001).run.st.getLsbD 0 = true := ⟨⟨rfl, rfl⟩, by decide⟩

theorem witness_InitializeTakesEffect : Ready State.reset 2 u2 ∧ u2.run.st.getLsbD 0 = false := ⟨⟨rfl, rfl⟩, by decide⟩

theorem witness_UninitializeZeroesRuntimeOnly : Ready (at' 0 (busy (up m0 0b111)) 1) 0 (busy (up m0 0b111)) := ready_m0 _ _

theorem witness_PowerOffAlwaysSucceeds : Ready (at' 0 (busy (up m0 0b111)) 1) 0 (busy (up m0 0b111)) := ready_m0 _ _

theorem witness_PowerLowUnsupported : Ready State.reset 0 m0 := ⟨rfl, rfl⟩

theorem witness_PowerFullByLifecycleState :
    Ready State.reset 0 m0 ∧ m0.run.st.getLsbD 0 = false ∧
    Ready (at' 0 (up m0 0b011) 0) 0 (up m0 0b011) ∧ (up m0 0b011).run.st.getLsbD 0 = true ∧
    (up m0 0b011).run.st.getLsbD 1 = true ∧
    Ready (at' 0 (up m0 0b001) 0) 0 (up m0 0b001) ∧ (up m0 0b001).run.st.getLsbD 0 = true ∧
    (up m0 0b001).run.st.getLsbD 1 = false :=
  ⟨⟨rfl, rfl⟩, by decide, ⟨rfl, rfl⟩, by decide, by decide, ⟨rfl, rfl⟩, by decide, by decide⟩

theorem witness_ControlEntryChecks :
    Ready (at' 0 (up m0 0b101) 1) 0 (up m0 0b101) ∧ (up m0 0b101).run.st.getLsbD 1 = false ∧
    Ready (at' 0 (busy (up m0 0b111)) 1) 0 (busy (up m0 0b111)) ∧ (busy (up m0 0b111)).run.st.getLsbD 1 = true ∧
    (busy (up m0 0b111)).run.busy = true := ⟨⟨rfl, rfl⟩, by decide, ⟨rfl, rfl⟩, by decide, rfl⟩

theorem witness_AbortClearsBusyAndDescriptor :
    Ready (at' 0 (busy (up m0 0b111)) 1) 0 (busy (up m0 0b111)) ∧ (busy (up m0 0b111)).run.st.getLsbD 1 = true :=
  ⟨⟨rfl, rfl⟩, by decide⟩

theorem witness_ModeInactiveClearsConfigured :
    Ready (at' 0 (up m0 0b111) 1) 0 (up m0 0b111) ∧ (up m0 0b111).run.st.getLsbD 1 = true ∧
    (up m0 0b111).run.busy = false := ⟨⟨rfl, rfl⟩, by decide, rfl⟩

/-- Each check fails somewhere: bank, chip-select 1, FF 6, widths 3 and 33 on a wide instance, ORDER 1 at widths 4 and 32. -/
theorem witness_ModeMasterFirstFailingCheck :
    Ready (at' 1 (up s1 0b011) 1) 1 (up s1 0b011) ∧ s1.desc.bank = .slaveOnly ∧
    Ready (at' 0 (up m0 0b011) 1) 0 (up m0 0b011) ∧ m0.desc.bank = .masterOnly ∧ (up m0 0b011).run.st.getLsbD 1 = true ∧
    (up m0 0b011).run.busy = false ∧ m0.desc.cs[(1 : Fin 4)] = none ∧ m0.desc.cs[(0 : Fin 4)] ≠ none ∧
    5 < (6#4).toNat ∧ (5#4).toNat ≤ 5 ∧ (3#6).toNat < 4 ∧ (if m0.desc.wide then 32 else 16) < (33#6).toNat ∧
    (32#6).toNat ≤ (if m0.desc.wide then 32 else 16) :=
  ⟨⟨rfl, rfl⟩, rfl, ⟨rfl, rfl⟩, rfl, by decide⟩

/-- The extremes FF 0 and 5, widths 4 and 32, policies UNUSED and 3. -/
theorem witness_ModeMasterCommits :
    Ready (at' 0 (up m0 0b011) 1) 0 (up m0 0b011) ∧ (up m0 0b011).run.st.getLsbD 1 = true ∧
    (up m0 0b011).run.busy = false ∧ m0.desc.bank = .masterOnly ∧ m0.desc.cs[(0 : Fin 4)] ≠ none ∧ (5#4).toNat ≤ 5 ∧
    4 ≤ (4#6).toNat ∧ (32#6).toNat ≤ (if m0.desc.wide then 32 else 16) := ⟨⟨rfl, rfl⟩, by decide⟩

/-- Bank, FF 6, widths 3 and 17 on a narrow instance, ORDER 1 at width 16. -/
theorem witness_ModeSlaveFirstFailingCheck :
    Ready (at' 0 (up m0 0b011) 1) 0 (up m0 0b011) ∧ m0.desc.bank = .masterOnly ∧
    Ready (at' 1 (up s1 0b011) 1) 1 (up s1 0b011) ∧ s1.desc.bank = .slaveOnly ∧ (up s1 0b011).run.st.getLsbD 1 = true ∧
    (up s1 0b011).run.busy = false ∧ 5 < (6#4).toNat ∧ (3#6).toNat < 4 ∧
    (if s1.desc.wide then 32 else 16) < (17#6).toNat ∧ (16#6).toNat ≤ (if s1.desc.wide then 32 else 16) :=
  ⟨⟨rfl, rfl⟩, rfl, ⟨rfl, rfl⟩, rfl, by decide⟩

theorem witness_ModeSlaveCommits :
    Ready (at' 1 (up s1 0b011) 1) 1 (up s1 0b011) ∧ (up s1 0b011).run.st.getLsbD 1 = true ∧
    (up s1 0b011).run.busy = false ∧ s1.desc.bank = .slaveOnly ∧ (5#4).toNat ≤ 5 ∧ 4 ≤ (4#6).toNat ∧
    (16#6).toNat ≤ (if s1.desc.wide then 32 else 16) := ⟨⟨rfl, rfl⟩, by decide⟩

theorem witness_BusSpeedAndDefaultValue :
    Ready (at' 0 (up m0 0b011) 1) 0 (up m0 0b011) ∧ (up m0 0b011).run.st.getLsbD 1 = true ∧
    (up m0 0b011).run.busy = false := ⟨⟨rfl, rfl⟩, by decide⟩

theorem witness_ControlSsDrivesSelectedLine :
    Ready (at' 0 softMaster 2) 0 softMaster ∧ softMaster.run.st.getLsbD 1 = true ∧ softMaster.run.busy = false ∧
    softMaster.run.mode.extractLsb' 0 8 = 1 ∧ softMaster.run.mode.extractLsb' 19 2 = 1 ∧
    Ready (at' 0 (up m0 0b111) 2) 0 (up m0 0b111) ∧ (up m0 0b111).run.st.getLsbD 1 = true ∧
    ¬ ((up m0 0b111).run.mode.extractLsb' 0 8 = 1 ∧ (up m0 0b111).run.mode.extractLsb' 19 2 = 1) :=
  ⟨⟨rfl, rfl⟩, by decide, by decide, by decide, by decide, ⟨rfl, rfl⟩, by decide⟩

theorem witness_TransferPreconditions :
    Ready (at' 0 (up m0 0b011) 1) 0 (up m0 0b011) ∧ (up m0 0b011).run.st.getLsbD 2 = false ∧
    Ready (at' 0 (busy (up m0 0b111)) 1) 0 (busy (up m0 0b111)) ∧ (busy (up m0 0b111)).run.st.getLsbD 2 = true ∧
    (busy (up m0 0b111)).run.busy = true ∧ (1 : Word) ≠ 0 := ⟨⟨rfl, rfl⟩, by decide, ⟨rfl, rfl⟩, by decide⟩

theorem witness_TransferAcceptedInInterruptMode :
    Ready (at' 0 (up m0 0b111) 2) 0 (up m0 0b111) ∧ (up m0 0b111).run.st.getLsbD 2 = true ∧
    (up m0 0b111).run.busy = false ∧ m0.desc.dmaTxBound = false ∧ m0.desc.dmaRxBound = false :=
  ⟨⟨rfl, rfl⟩, by decide⟩

theorem witness_TransferAcceptedInDmaMode :
    Ready (at' 2 (up u2 0b111) 2) 2 (up u2 0b111) ∧ (up u2 0b111).run.st.getLsbD 2 = true ∧
    (up u2 0b111).run.busy = false ∧ u2.desc.dmaTxBound = true ∧ u2.ser.txCfgOk = true ∧ u2.ser.rxCfgOk = true :=
  ⟨⟨rfl, rfl⟩, by decide⟩

/-- An instance whose configure calls are answered as given, and one with the receive channel alone bound. -/
def failing (tx rx : Bool) : Spi := { up u2 0b111 with ser := { u2.ser with txCfgOk := tx, rxCfgOk := rx } }

theorem witness_DmaConfigureFailureLeavesBusy :
    Ready (at' 2 (failing false true) 2) 2 (failing false true) ∧ (failing false true).run.st.getLsbD 2 = true ∧
    Ready (at' 2 (failing true false) 2) 2 (failing true false) ∧ (failing true false).desc.dmaRxBound = true ∧
    (failing true false).run.busy = false ∧
    Ready (at' 2 { failing true false with desc := { u2.desc with dmaTxBound := false } } 2) 2
      { failing true false with desc := { u2.desc with dmaTxBound := false } } :=
  ⟨⟨rfl, rfl⟩, by decide, ⟨rfl, rfl⟩, rfl, rfl, ⟨rfl, rfl⟩⟩

theorem witness_GetDataCountAnswersReceiveCounter : Ready (at' 0 (up m0 0b111) 1) 0 (up m0 0b111) := ready_m0 _ _

theorem witness_GetStatusPacksTriple : Ready (at' 0 (busy (up m0 0b111)) 1) 0 (busy (up m0 0b111)) := ready_m0 _ _

/-- IRQ is taken somewhere, and somewhere not. -/
theorem witness_IrqTakenExactlyWhenEnabled :
    (∃ t, exec (.irq 0) (h6 .txOnly 0b00011) = .next t) ∧ exec (.irq 0) .reset = .refused .stimulusNotEnabled :=
  ⟨⟨_, rfl⟩, rfl⟩

/-- An overflow alone (RXO), with the class unmasked. -/
theorem witness_OverflowClassPreempts :
    ∃ x, Ready (at' 0 x 1) 0 x ∧ x.hw.irqEn = true ∧ x.ser.raw &&& x.hw.imr &&& 0b01110 ≠ 0 :=
  ⟨pump m0 .reset .rxOnly 0b11100 0b01000 false false 0, ready_m0 _ _, by decide⟩

/-- The three endings of a drain: the last unit, a filler, and neither (a slave). -/
theorem witness_DrainStoresUnitAndAdvances :
    (∃ x, Ready (at' 0 x 1) 0 x ∧ x.hw.irqEn = true ∧ x.ser.raw &&& x.hw.imr &&& 0b01110 = 0 ∧ x.ser.srRfne = true ∧
      x.ser.raw &&& x.hw.imr &&& 0b10000 ≠ 0 ∧ x.xfer.rxBuf ≠ 0 ∧ x.xfer.rxCnt.toNat < x.xfer.num.toNat ∧
      x.xfer.rxCnt + BitVec.ofNat 32 1 = x.xfer.num) ∧
    (∃ x, Ready (at' 0 x 1) 0 x ∧ x.hw.irqEn = true ∧ x.ser.raw &&& x.hw.imr &&& 0b01110 = 0 ∧ x.ser.srRfne = true ∧
      x.ser.raw &&& x.hw.imr &&& 0b10000 ≠ 0 ∧ x.xfer.rxBuf ≠ 0 ∧ x.xfer.rxCnt.toNat < x.xfer.num.toNat ∧
      x.xfer.rxCnt + BitVec.ofNat 32 1 ≠ x.xfer.num ∧ x.desc.tag ≠ .slave ∧ x.xfer.txBuf = 0) ∧
    (∃ x, Ready (at' 1 x 1) 1 x ∧ x.hw.irqEn = true ∧ x.ser.raw &&& x.hw.imr &&& 0b01110 = 0 ∧ x.ser.srRfne = true ∧
      x.ser.raw &&& x.hw.imr &&& 0b10000 ≠ 0 ∧ x.xfer.rxBuf ≠ 0 ∧ x.xfer.rxCnt.toNat < x.xfer.num.toNat ∧
      x.xfer.rxCnt + BitVec.ofNat 32 1 ≠ x.xfer.num ∧ x.desc.tag = .slave) :=
  ⟨⟨pump m0 { Xfer.reset with rxBuf := 0x3000, num := 3, rxCnt := 2 } .rxOnly 0b11100 0b10000 true false 0, ready_m0 _ _, by decide⟩,
   ⟨pump m0 { Xfer.reset with rxBuf := 0x3000, num := 3, rxCnt := 1 } .rxOnly 0b11100 0b10000 true false 0, ready_m0 _ _, by decide⟩,
   ⟨pump s1 { Xfer.reset with rxBuf := 0x3000, num := 3, rxCnt := 1 } .rxOnly 0b11100 0b10000 true false 0, ready_s1 _ _, by decide⟩⟩

/-- The receive and the transmit side, with the counter exactly at the total. -/
theorem witness_AlreadyCompleteRaisesDataLostOnly :
    (∃ x, Ready (at' 0 x 1) 0 x ∧ x.hw.irqEn = true ∧ x.ser.raw &&& x.hw.imr &&& 0b01110 = 0 ∧ x.ser.srRfne = true ∧
      x.ser.raw &&& x.hw.imr &&& 0b10000 ≠ 0 ∧ x.xfer.rxBuf ≠ 0 ∧ x.xfer.num.toNat ≤ x.xfer.rxCnt.toNat) ∧
    (∃ x, Ready (at' 0 x 1) 0 x ∧ x.hw.irqEn = true ∧ x.ser.raw &&& x.hw.imr &&& 0b01110 = 0 ∧ x.ser.srRfne = false ∧
      x.ser.srTfnf = true ∧ x.ser.raw &&& x.hw.imr &&& 0b00001 ≠ 0 ∧ x.xfer.txBuf ≠ 0 ∧
      x.xfer.num.toNat ≤ x.xfer.txCnt.toNat) :=
  ⟨⟨pump m0 { Xfer.reset with rxBuf := 0x3000, num := 4, rxCnt := 4 } .rxOnly 0b11100 0b10000 true false 0, ready_m0 _ _, by decide⟩,
   ⟨pump m0 { Xfer.reset with txBuf := 0x2000, num := 4, txCnt := 4 } .txRx 0b11111 0b00001 false true 0, ready_m0 _ _, by decide⟩⟩

theorem witness_TransmitWritesUnitAndHolds :
    ∃ x, Ready (at' 0 x 2) 0 x ∧ x.hw.irqEn = true ∧ x.ser.raw &&& x.hw.imr &&& 0b01110 = 0 ∧ x.ser.srRfne = false ∧
      x.ser.srTfnf = true ∧ x.ser.raw &&& x.hw.imr &&& 0b00001 ≠ 0 ∧ x.xfer.txBuf ≠ 0 ∧
      x.xfer.txCnt.toNat < x.xfer.num.toNat :=
  ⟨pump m0 { Xfer.reset with txBuf := 0x2000, num := 4 } .txOnly 0b00011 0b00001 false true 0, ready_m0 _ _, by decide⟩

/-- A finished transmit in each direction, and one unit short of it. -/
theorem witness_PhaseBCompletesTransmit :
    (∀ d, ∃ x : Spi, (at' 0 x 1).spi? 0 = some x ∧ x.ser.srBusy = false ∧ x.xfer.txCnt = x.xfer.num ∧ x.hw.tmod = d) ∧
    (∃ x : Spi, (at' 0 x 1).spi? 0 = some x ∧ x.ser.srBusy = false ∧ x.xfer.txCnt ≠ x.xfer.num) ∧
    (∃ s : State, s.ctx = .isrWait 0 .afterFiller ∧ s.inputs = .resume :: [.env (.busWrite 0 0)] ∧
      s.params.pTxMask = .literal) ∧
    (∃ s : State, s.ctx = .isrWait 0 .afterTx ∧ s.inputs = [.command ⟨9, 0, 0, 0⟩] ∧ s.params.pTxMask = .always) :=
  ⟨fun d => ⟨pump m0 { Xfer.reset with txBuf := 0x2000, num := 4, txCnt := 4 } d 0b11111 0 false true 0, rfl, rfl, rfl, rfl⟩,
   ⟨pump m0 { Xfer.reset with txBuf := 0x2000, num := 4, txCnt := 3 } .txOnly 0b00011 0 false true 0, rfl, rfl, by decide⟩,
   ⟨{ State.reset with ctx := .isrWait 0 .afterFiller, inputs := [.resume, .env (.busWrite 0 0)] }, rfl, rfl, rfl⟩,
   ⟨{ State.reset with
      ctx := .isrWait 0 .afterTx, inputs := [.command ⟨9, 0, 0, 0⟩], params := { Config.refParams with pTxMask := .always } },
    rfl, rfl, rfl⟩⟩

/-- H18 (receive-ready with no buffer) and H19 (no branch). -/
theorem witness_HandlerWithNothingToServe :
    (∃ x, Ready (at' 0 x 1) 0 x ∧ x.hw.irqEn = true ∧ x.ser.raw &&& x.hw.imr ≠ 0 ∧
      x.ser.raw &&& x.hw.imr &&& 0b01110 = 0 ∧ x.ser.srRfne = true ∧ x.ser.raw &&& x.hw.imr &&& 0b10000 ≠ 0 ∧
      x.xfer.rxBuf = 0) ∧
    (∃ x, Ready (at' 0 x 1) 0 x ∧ x.hw.irqEn = true ∧ x.ser.raw &&& x.hw.imr ≠ 0 ∧
      x.ser.raw &&& x.hw.imr &&& 0b01110 = 0 ∧ x.ser.srRfne = false ∧ x.ser.srTfnf = false) :=
  ⟨⟨pump m0 .reset .rxOnly 0b11100 0b10000 true false 0, ready_m0 _ _, by decide⟩,
   ⟨pump m0 .reset .rxOnly 0b11100 0b10000 false false 0, ready_m0 _ _, by decide⟩⟩

/-- Beat 1 performed, the first and the last still to do, byte 0 of the last moved. -/
def beating : Spi :=
  transferring { doneChannel t22Tx [1] with flight := [⟨2, 0, [(0, 0x11)]⟩] }
    { doneChannel t22Rx [1] with flight := [⟨2, 0x1234, [(0, 0x34)]⟩] }

theorem witness_DmaBeatMovesOneUnit :
    Ready { at' 2 beating 2 with dmaEngineEn := true } 2 beating ∧ (0 : Nat) < t22Tx.beats ∧ 2 < t22Tx.beats ∧
    beating.dmaTx.cfg = some t22Tx ∧ t22Tx.src = .mem 0x2000 ∧ beating.dmaTx.en = true ∧ beating.dmaTx.stale = false ∧
    0 ∉ beating.dmaTx.done ∧ (∀ p ∈ beating.dmaTx.flight, p.beat ≠ 0) ∧ 2 ∉ beating.dmaTx.done ∧
    (beating.dmaTx.part 2 0).bytes.lookup 1 = none ∧ 1 < t22Tx.size / 8 ∧
    beating.dmaRx.cfg = some t22Rx ∧ t22Rx.dst = .mem 0x3000 ∧ (∀ p ∈ beating.dmaRx.flight, p.beat ≠ 0) ∧
    beating.dmaRx.part 2 beating.ser.drIn ∈ beating.dmaRx.flight ∧
    (beating.dmaRx.part 2 beating.ser.drIn).bytes.lookup 1 = none :=
  ⟨⟨rfl, rfl⟩, by decide⟩

/-- Each stimulus is taken after T22 with every beat done; DONE is not with one beat missing. -/
theorem witness_DmaStimulusTakenExactlyWhenEnabled :
    (∃ t, exec (.dmaTxError 2 1) (t22 .txRx) = .next t) ∧ (∃ t, exec (.dmaRxError 2 1) (t22 .txRx) = .next t) ∧
    (∃ t, exec (.dmaTxDone 2) (t22 .txRx) = .next t) ∧ (∃ t, exec (.dmaRxDone 2) (t22 .txRx) = .next t) ∧
    exec (.dmaRxDone 2) { at' 2 beating 2 with dmaEngineEn := true } = .refused .stimulusNotEnabled :=
  ⟨⟨_, rfl⟩, ⟨_, rfl⟩, ⟨_, rfl⟩, ⟨_, rfl⟩, rfl⟩

/-- Every beat done, and a channel re-armed while enabled with none done. -/
theorem witness_TransmitDoneClosesTransfer :
    (∃ x, Ready (t22 .txOnly) 2 x ∧ (t22 .txOnly).dmaEngineEn = true ∧ x.dmaTx.en = true ∧ x.dmaTx.cfg = some t22Tx ∧
      ∀ k < t22Tx.beats, k ∈ x.dmaTx.done) ∧
    (∃ x, Ready { at' 2 x 2 with dmaEngineEn := true } 2 x ∧ x.dmaTx.en = true ∧ x.dmaTx.cfg = some t22Tx ∧
      x.dmaTx.stale = true) :=
  ⟨⟨_, ⟨rfl, rfl⟩, rfl, rfl, rfl, by decide⟩,
   ⟨{ beating with dmaTx := { doneChannel t22Tx [] with stale := true } }, ⟨rfl, rfl⟩, rfl, rfl, rfl⟩⟩

theorem witness_ReceiveDoneClosesTransfer :
    (∃ x, Ready (t22 .txRx) 2 x ∧ (t22 .txRx).dmaEngineEn = true ∧ x.dmaRx.en = true ∧ x.dmaRx.cfg = some t22Rx ∧
      ∀ k < t22Rx.beats, k ∈ x.dmaRx.done) ∧
    (∃ x, Ready { at' 2 x 2 with dmaEngineEn := true } 2 x ∧ x.dmaRx.en = true ∧ x.dmaRx.cfg = some t22Rx ∧
      x.dmaRx.stale = true) :=
  ⟨⟨_, ⟨rfl, rfl⟩, rfl, rfl, rfl, by decide⟩,
   ⟨{ beating with dmaRx := { doneChannel t22Rx [] with stale := true } }, ⟨rfl, rfl⟩, rfl, rfl, rfl⟩⟩

theorem witness_DmaErrorsAreSwallowed :
    ∃ x, Ready (t22 .txRx) 2 x ∧ (t22 .txRx).dmaEngineEn = true ∧ x.dmaTx.en = true ∧ x.dmaRx.en = true :=
  ⟨_, ⟨rfl, rfl⟩, rfl, rfl, rfl⟩

/-- n = 0 and n = 4 at the top of the address space, and a byte outside the unit. -/
theorem witness_MemWriteIsLowByteFirst :
    Memory.wf [(0, 1), (0xFFFFFFFF, 2)] = true ∧ (0 : Nat) ≤ 4 ∧ (4 : Nat) ≤ 4 ∧
    ∀ k < 4, (0x3000 : Word) ≠ 0xFFFFFFFE + BitVec.ofNat 32 k := by decide

/-- The ends of the three ranges. -/
theorem witness_WidthToBytesTable :
    4 ≤ (4#6).toNat ∧ (7#6).toNat ≤ 7 ∧ 8 ≤ (8#6).toNat ∧ (15#6).toNat ≤ 15 ∧ 16 ≤ (16#6).toNat ∧ (32#6).toNat ≤ 32 := by
  decide

/-- H12's state. -/
def h12 : State :=
  at' 0 (pump m0 { Xfer.reset with rxBuf := 0x3000, num := 3 } .rxOnly 0b11100 0b10000 true false 0x123456A1) 1

theorem witness_InstructionMemoryFrame :
    ∃ t, exec (.irq 0) h12 = .next t ∧ t.byte 0x3000 ≠ h12.byte 0x3000 := ⟨_, rfl, by decide⟩

theorem witness_OtherInstancesUntouched : ∃ t, exec (.irq 0) h12 = .next t ∧ t.spi? 0 ≠ h12.spi? 0 := ⟨_, rfl, by decide⟩

theorem witness_InterruptContextWrites :
    (Instr.irq 0).port = .stimulus ∧ ∃ t x y, exec (.irq 0) h12 = .next t ∧ h12.spi? 0 = some x ∧ t.spi? 0 = some y :=
  ⟨rfl, _, _, _, rfl, rfl, rfl⟩

theorem witness_HostOperationFrame :
    (Instr.receive 2 0x3000 1).port = .command ∧
    ∃ t x y, exec (.receive 2 0x3000 1) (at' 2 (up u2 0b111) 2) = .next t ∧ (at' 2 (up u2 0b111) 2).spi? 2 = some x ∧
      t.spi? 2 = some y ∧ y.drlog ≠ x.drlog := ⟨rfl, _, _, _, rfl, rfl, rfl, by decide⟩

/-- A failure that changes nothing else, and the exception. -/
theorem witness_FailureChangesNothing :
    (∃ t, exec (.send 0 0 1) .reset = .next t ∧ t.ret ≠ 0) ∧
    (∃ t, exec (.send 2 0x2000 1) (at' 2 (failing false true) 2) = .next t ∧ t.ret ≠ 0 ∧
      t.spis ≠ (at' 2 (failing false true) 2).spis) := ⟨⟨_, rfl, by decide⟩, ⟨_, rfl, by decide, by decide⟩⟩

theorem witness_AtMostOneEventPerInstruction :
    ∃ t, exec (.dmaRxDone 2) (t22 .txRx) = .next t ∧ t.evlog ≠ (t22 .txRx).evlog := ⟨_, rfl, by decide⟩

/-- busy set by SEND, data_lost by IRQ, and an instance with mode_fault set. -/
theorem witness_WhoSetsStatusFlags :
    (∃ t x y, exec (.send 0 0x2000 1) (at' 0 (up m0 0b111) 1) = .next t ∧ (at' 0 (up m0 0b111) 1).spi? 0 = some x ∧
      t.spi? 0 = some y ∧ x.run.busy = false ∧ y.run.busy = true) ∧
    (∃ s t x y, exec (.irq 0) s = .next t ∧ s.spi? 0 = some x ∧ t.spi? 0 = some y ∧ x.run.dataLost = false ∧
      y.run.dataLost = true) ∧
    (∃ s t x y, exec (.getStatus 0) s = .next t ∧ s.spi? 0 = some x ∧ t.spi? 0 = some y ∧ y.run.modeFault = true) :=
  ⟨⟨_, _, _, rfl, rfl, rfl, rfl, rfl⟩,
   ⟨at' 0 (pump m0 .reset .rxOnly 0b11100 0b01000 false false 0) 1, _, _, _, rfl, rfl, rfl, rfl, rfl⟩,
   ⟨at' 0 { m0 with run := { m0.run with modeFault := true } } 1, _, _, _, rfl, rfl, rfl, rfl⟩⟩

/-- The mask rises by SEND and falls by IRQ. -/
theorem witness_WhoWritesInterruptMask :
    (∃ t x y, exec (.send 0 0x2000 1) (at' 0 (up m0 0b111) 1) = .next t ∧ (at' 0 (up m0 0b111) 1).spi? 0 = some x ∧
      t.spi? 0 = some y ∧ y.hw.imr ≠ x.hw.imr) ∧
    (∃ s t x y, exec (.irq 0) s = .next t ∧ s.spi? 0 = some x ∧ t.spi? 0 = some y ∧ y.hw.imr ≠ x.hw.imr) :=
  ⟨⟨_, _, _, rfl, rfl, rfl, by decide⟩,
   ⟨at' 0 (pump m0 { Xfer.reset with rxBuf := 0x3000, num := 1 } .rxOnly 0b11100 0b10000 true false 0) 1, _, _, _, rfl, rfl, rfl,
    by decide⟩⟩

theorem witness_WhoWritesLifecycleBits :
    ∃ t x y, exec (.powerOff 0) (at' 0 (up m0 0b111) 1) = .next t ∧ (at' 0 (up m0 0b111) 1).spi? 0 = some x ∧
      t.spi? 0 = some y ∧ y.run.st ≠ x.run.st := ⟨_, _, _, rfl, rfl, rfl, by decide⟩

theorem witness_WhoWritesUnitSize :
    ∃ t, exec (.ctlModeMaster 0 0 16 0 0 0) (at' 0 (up m0 0b011) 1) = .next t ∧ t.bpu ≠ (at' 0 (up m0 0b011) 1).bpu :=
  ⟨_, rfl, by decide⟩

/-- The path and the gate, each turned on and off. -/
theorem witness_WhoWritesPathAndGate :
    (∃ t x y, exec (.send 0 0x2000 1) (at' 0 (up m0 0b111) 1) = .next t ∧ (at' 0 (up m0 0b111) 1).spi? 0 = some x ∧
      t.spi? 0 = some y ∧ x.hw.hwEn = false ∧ y.hw.hwEn = true) ∧
    (∃ t x y, exec (.powerOff 0) l12 = .next t ∧ l12.spi? 0 = some x ∧ t.spi? 0 = some y ∧ x.hw.hwEn = true ∧
      y.hw.hwEn = false ∧ x.hw.irqEn = true ∧ y.hw.irqEn = false) ∧
    (∃ s t x y, exec (.powerFull 0) s = .next t ∧ s.spi? 0 = some x ∧ t.spi? 0 = some y ∧ x.hw.irqEn = false ∧
      y.hw.irqEn = true) :=
  ⟨⟨_, _, _, rfl, rfl, rfl, rfl, rfl⟩, ⟨_, _, _, rfl, rfl, rfl, rfl, rfl, rfl, rfl⟩,
   ⟨at' 0 { m0 with run := { m0.run with st := 0b001 } } 1, _, _, _, rfl, rfl, rfl, rfl, rfl⟩⟩

end Sys2Proof.Tests
end

namespace Sys2Proof.Machine

/-! ## `WidthToBytes` (20_memory.md R64): one lemma per row of its table -/

theorem widthToBytes_of_le_seven {w : BitVec 6} (h : w.toNat ≤ 7) : widthToBytes w = 1 := if_pos h

theorem widthToBytes_of_le_fifteen {w : BitVec 6} (hlo : 8 ≤ w.toNat) (hhi : w.toNat ≤ 15) :
    widthToBytes w = 2 := by
  have hNotOne : ¬ w.toNat ≤ 7 := by omega
  simp [widthToBytes, hNotOne, hhi]

theorem widthToBytes_of_sixteen_le {w : BitVec 6} (h : 16 ≤ w.toNat) : widthToBytes w = 4 := by
  have hNotOne : ¬ w.toNat ≤ 7 := by omega
  have hNotTwo : ¬ w.toNat ≤ 15 := by omega
  simp [widthToBytes, hNotOne, hNotTwo]

/-- Settles O49: each row of the table holds at every width, so also at the accepted ones, 4 to 32. -/
theorem widthToBytesTable : Obligations.WidthToBytesTable :=
  fun _ _ _ => ⟨widthToBytes_of_le_seven, widthToBytes_of_le_fifteen, widthToBytes_of_sixteen_le⟩

end Sys2Proof.Machine

namespace Sys2Proof.Machine

/-! ## The lifecycle operations where `Ready` holds (40_lifecycle.md R120, R125 to R127): one equation per outcome -/

section
variable {s : State} {i : Idx} {x : Spi}

/-- In FOREGROUND, an operation of a member of `Inst` is its body. -/
theorem Ready.command_eq (h : Ready s i x) (body : Spi → State) : command i s body = .next (body x) :=
  let ⟨hctx, hspi⟩ := h
  command_ready body hctx hspi

theorem execInitialize_of_initialized (h : Ready s i x) (cb : Word) (hinit : x.run.initialized = true) :
    execInitialize i cb s = .next (s.reply .ok) := by
  rw [execInitialize, h.command_eq, if_pos hinit]

theorem execPowerOff_of_ready (h : Ready s i x) :
    execPowerOff i s = .next ((s.put i x.powerOff).reply .ok) := h.command_eq _

theorem execPowerLow_of_ready (h : Ready s i x) : execPowerLow i s = .next (s.reply .errorUnsupported) :=
  h.command_eq _

theorem execPowerFull_of_not_initialized (h : Ready s i x) (hinit : x.run.initialized = false) :
    execPowerFull i s = .next (s.reply .error) := by
  rw [execPowerFull, h.command_eq, if_pos (by rw [hinit]; rfl)]

theorem execPowerFull_of_initialized (h : Ready s i x) (hinit : x.run.initialized = true) :
    execPowerFull i s = .next (if x.run.powered then s.reply .ok
      else ((s.xcalls [.clockEnable i x.desc.tag]).put i x.powerFull).reply .ok) := by
  rw [execPowerFull, h.command_eq, if_neg (by simp [hinit])]

theorem execPowerFull_of_powered (h : Ready s i x) (hinit : x.run.initialized = true)
    (hpow : x.run.powered = true) : execPowerFull i s = .next (s.reply .ok) := by
  rw [execPowerFull_of_initialized h hinit, if_pos hpow]

theorem execPowerFull_of_not_powered (h : Ready s i x) (hinit : x.run.initialized = true)
    (hpow : x.run.powered = false) :
    execPowerFull i s = .next (((s.xcalls [.clockEnable i x.desc.tag]).put i x.powerFull).reply .ok) := by
  rw [execPowerFull_of_initialized h hinit, if_neg (by simp [hpow])]

end

/-- Settles O15: the INITIALIZED test comes first, and its branch only answers OK. -/
theorem initializeIsIdempotent : Obligations.InitializeIsIdempotent :=
  fun _ _ _ cb hready hinit => execInitialize_of_initialized hready cb hinit

/-- Settles O18: POWER_OFF has no test, and `Spi.powerOff` writes exactly the fields the statement lists. -/
theorem powerOffAlwaysSucceeds : Obligations.PowerOffAlwaysSucceeds :=
  fun _ _ _ hready => execPowerOff_of_ready hready

/-- Settles O19: the operation only answers, and tests nothing of `x`. -/
theorem powerLowUnsupported : Obligations.PowerLowUnsupported :=
  fun _ _ _ hready => execPowerLow_of_ready hready

/-- Settles O20: one equation for each of the three lifecycle cases; `Spi.powerFull` writes exactly the fields the
statement lists. -/
theorem powerFullByLifecycleState : Obligations.PowerFullByLifecycleState :=
  fun _ _ _ hready =>
    ⟨execPowerFull_of_not_initialized hready, execPowerFull_of_powered hready, execPowerFull_of_not_powered hready⟩

end Sys2Proof.Machine

namespace Sys2Proof.Machine

/-! ## CTL_ABORT_TRANSFER where `Ready` holds (41_control.md R141) -/

/-- The busy flag is not tested, so no hypothesis speaks of it. -/
theorem execCtlAbortTransfer_of_powered {s : State} {i : Idx} {x : Spi} (h : Ready s i x)
    (hpow : x.run.powered = true) :
    execCtlAbortTransfer i s = .next ((s.put i { x.clearXfer with run := x.run.clearBusy }).reply .ok) := by
  rw [execCtlAbortTransfer, h.command_eq, if_neg (by simp [hpow])]

/-- Settles O22: past the POWERED test the abort commits at once; `clearXfer` and `clearBusy` write exactly the fields
the statement lists. -/
theorem abortClearsBusyAndDescriptor : Obligations.AbortClearsBusyAndDescriptor :=
  fun _ _ _ hready hpow => execCtlAbortTransfer_of_powered hready hpow

end Sys2Proof.Machine

namespace Sys2Proof.Machine

/-! ## The preconditions of the transfer calls where `Ready` holds (42_transfer_dispatch.md R171) -/

theorem paramsFail_iff {required : List Word} {n : Word} : paramsFail required n = true ↔ 0 ∈ required ∨ n = 0 := by
  simp [paramsFail]

section
variable {s : State} {i : Idx} {x : Spi} {required : List Word} {n : Word} {body : Spi → State}

theorem transferCall_of_null (h : Ready s i x) (hnull : 0 ∈ required ∨ n = 0) :
    transferCall i s required n body = .next (s.reply .errorParameter) := by
  rw [transferCall, h.command_eq, if_pos (paramsFail_iff.2 hnull)]

/-- Past P1, what is left is the CONFIGURED test, the busy test and the body. -/
theorem transferCall_of_not_null (h : Ready s i x) (hreq : 0 ∉ required) (hn : n ≠ 0) :
    transferCall i s required n body = .next (if !x.run.configured then s.reply .error
      else if x.run.busy then s.reply .errorBusy else body x) := by
  rw [transferCall, h.command_eq, if_neg (mt paramsFail_iff.1 (not_or.2 ⟨hreq, hn⟩))]

theorem transferCall_of_not_configured (h : Ready s i x) (hreq : 0 ∉ required) (hn : n ≠ 0)
    (hconf : x.run.configured = false) : transferCall i s required n body = .next (s.reply .error) := by
  rw [transferCall_of_not_null h hreq hn, if_pos (by simp [hconf])]

theorem transferCall_of_busy (h : Ready s i x) (hreq : 0 ∉ required) (hn : n ≠ 0)
    (hconf : x.run.configured = true) (hbusy : x.run.busy = true) :
    transferCall i s required n body = .next (s.reply .errorBusy) := by
  rw [transferCall_of_not_null h hreq hn, if_neg (by simp [hconf]), if_pos hbusy]

end

/-- SEND, RECEIVE and TRANSFER of non-null pointers are each a `transferCall` whose required pointers are all non-null. -/
theorem exec_eq_transferCall (s : State) (i : Idx) {a b n : Word} {c : Instr}
    (hc : c ∈ ([.send i a n, .receive i a n, .transfer i a b n] : List Instr)) (ha : a ≠ 0) (hb : b ≠ 0) :
    ∃ required body, 0 ∉ required ∧ exec c s = transferCall i s required n body := by
  have hone : (0 : Word) ∉ [a] := mt List.mem_singleton.1 ha.symm
  have htwo : (0 : Word) ∉ [a, b] := mt List.mem_pair.1 (not_or.2 ⟨ha.symm, hb.symm⟩)
  simp only [List.mem_cons, List.not_mem_nil, or_false] at hc
  obtain rfl | rfl | rfl := hc
  · exact ⟨_, _, hone, rfl⟩
  · exact ⟨_, _, hone, rfl⟩
  · exact ⟨_, _, htwo, rfl⟩

/-- Settles O30: P1 call by call, since each call has its own required pointers; P2 and P3 once for all three, by
`exec_eq_transferCall`. -/
theorem transferPreconditions : Obligations.TransferPreconditions := by
  intro s i x a b n hready
  refine ⟨fun hnull => ?_, fun hnull => ?_, fun c hc ha hb hn => ?_⟩
  · have hreq : 0 ∈ [a] ∨ n = 0 := hnull.imp_left fun h => List.mem_singleton.2 h.symm
    exact ⟨transferCall_of_null hready hreq, transferCall_of_null hready hreq⟩
  · have hreq : 0 ∈ [a, b] ∨ n = 0 :=
      (or_assoc.2 hnull).imp_left fun h => List.mem_pair.2 (h.imp Eq.symm Eq.symm)
    exact transferCall_of_null hready hreq
  · obtain ⟨required, body, hreq, hexec⟩ := exec_eq_transferCall s i hc ha hb
    rw [hexec]
    exact ⟨transferCall_of_not_configured hready hreq hn, transferCall_of_busy hready hreq hn⟩

end Sys2Proof.Machine

namespace Sys2Proof.Machine

/-! ## GETDATACOUNT where `Ready` holds (42_transfer_dispatch.md R190) -/

theorem execGetDataCount_of_ready {s : State} {i : Idx} {x : Spi} (h : Ready s i x) :
    execGetDataCount i s = .next (s.answer (if x.run.configured then x.xfer.rxCnt else 0)) := h.command_eq _

/-- Settles O34: the query tests CONFIGURED only, and `answer` writes `ret` only. -/
theorem getDataCountAnswersReceiveCounter : Obligations.GetDataCountAnswersReceiveCounter :=
  fun _ _ _ hready => execGetDataCount_of_ready hready

end Sys2Proof.Machine

namespace Sys2Proof.Machine

/-! ## What an instruction writes: its own `Spi`, one case per form, and of the shared state

`Effect` (Laws/Exec.lean) says what the next state is. Here it is read per member of `Inst`, so that a law about what an
instruction may change of one is a case analysis over `Writes`, with no state left in it. -/

/-- A transfer call on member `i` that passes P1, with its buffers, count and direction (42_transfer_dispatch.md R171 to
R174). -/
inductive TransferCall (i : Idx) : Instr → Word → Word → Word → Tmod → Prop
  | send {a n} (ha : a ≠ 0) (hn : n ≠ 0) : TransferCall i (.send i a n) a 0 n .txOnly
  | receive {a n} (ha : a ≠ 0) (hn : n ≠ 0) : TransferCall i (.receive i a n) 0 a n .rxOnly
  | transfer {a b n} (ha : a ≠ 0) (hb : b ≠ 0) (hn : n ≠ 0) : TransferCall i (.transfer i a b n) a b n .txRx

/-- A channel after the dispatch of a transfer: untouched, configured, or configured and enabled on an enabled engine
(R178 to R184). -/
inductive Channel.Armed (cfg : DmaCfg) (engineEn : Bool) (c : Channel) : Channel → Prop
  | untouched : Armed cfg engineEn c c
  | configured : Armed cfg engineEn c (c.configure cfg)
  | enabled (he : engineEn = true) : Armed cfg engineEn c (c.configure cfg).enable

/-- A `Spi` after the acceptance of a transfer (R175), by its path: sources unmasked (R186) or channels armed. -/
inductive Accepted (i : Idx) (tb rb n : Word) (dir : Tmod) (s : State) (engineEn : Bool) (x : Spi) : Spi → Prop
  | unmasked (hb : dmaBound x.desc = false) : Accepted i tb rb n dir s engineEn x
      { x.accept tb rb n s.bpu dir with hw := (x.accept tb rb n s.bpu dir).hw.unmask dir.sources }
  | armed {tx rx log} (hb : dmaBound x.desc = true) (htx : x.dmaTx.Armed (txConfig i s.params s.bpu n tb) engineEn tx)
      (hrx : x.dmaRx.Armed (rxConfig i s.params s.bpu n rb) engineEn rx)
      (hlog : log = x.drlog ∨ (log = x.drlog ++ [dummyWord s.params] ∧ dir = .rxOnly)) :
      Accepted i tb rb n dir s engineEn x { x.accept tb rb n s.bpu dir with dmaTx := tx, dmaRx := rx, drlog := log }

theorem State.xcalls_nil (s : State) : s.xcalls [] = s := by
  rw [State.xcalls, List.append_nil]

/-- What a transfer call that is accepted does to the whole state. -/
theorem accept_eq (i : Idx) (tb rb n : Word) (dir : Tmod) (x : Spi) (s : State) :
    ∃ calls y e c, Accepted i tb rb n dir s e x y ∧ (s.dmaEngineEn = true → e = true) ∧
      (c = .ok ∨ (c = .error ∧ dmaBound x.desc = true)) ∧
      accept i tb rb n dir x s = { ((s.xcalls calls).put i y).reply c with dmaEngineEn := e } := by
  obtain ⟨hb, h⟩ | ⟨hb, h⟩ := accept_cases i tb rb n dir x s
  · exact ⟨[], _, s.dmaEngineEn, .ok, .unmasked hb, id, .inl rfl, by rw [h, State.xcalls_nil]; rfl⟩
  · obtain ⟨calls, tx, rx, ⟨htx, hrx, h'⟩ | ⟨htx, hrx, log, hlog, h'⟩⟩ :=
      armDma_cases i n dir (x.accept tb rb n s.bpu dir) s
    · refine ⟨calls, _, s.dmaEngineEn, .error, .armed hb (tx := tx) (rx := rx) ?_ ?_ (.inl rfl), id,
        .inr ⟨rfl, hb⟩, h.trans h'⟩
      · obtain rfl | rfl := htx
        · exact .untouched
        · exact .configured
      · obtain rfl | rfl := hrx
        · exact .untouched
        · exact .configured
    · refine ⟨calls, _, true, .ok, .armed hb (tx := tx) (rx := rx) ?_ ?_ hlog, fun _ => rfl, .inl rfl, h.trans h'⟩
      · obtain rfl | rfl := htx
        · exact .untouched
        · exact .enabled rfl
      · obtain rfl | rfl := hrx
        · exact .untouched
        · exact .enabled rfl

/-- What an instruction may make of its own `Spi`, `x`, one case per form; `s` and `t` are the states before and
after. -/
inductive Writes : Instr → State → State → Spi → Spi → Prop
  | initializeOp {i cb s t x} (h0 : x.run.initialized = false) : Writes (.initializeOp i cb) s t x
      { x.clearXfer with hw := { x.hw with pinsCfg := true }, run := { x.run.setInitialized with cb := cb } }
  | uninitializeOp {i s t x} : Writes (.uninitializeOp i) s t x { x with run := .zeroed }
  | powerOff {i s t x} : Writes (.powerOff i) s t x x.powerOff
  | powerFull {i s t x} (h0 : x.run.initialized = true) : Writes (.powerFull i) s t x x.powerFull
  | modeInactive {i s t x} : Writes (.ctlModeInactive i) s t x { x with run := x.run.inactiveRole.clearConfigured }
  | modeMaster {i ff bits order ssm v s t x} (hp : x.run.powered = true)
      (hv : masterChecks x.desc s.slaveNo ff bits order ssm = none) (ht : t.bpu = widthToBytes bits) :
      Writes (.ctlModeMaster i ff bits order ssm v) s t x
        ((x.commitMode (modeWord roleMaster ff bits 0 ssm 0) ff bits).setSpeed v)
  | modeSlave {i ff bits order sss s t x} (hp : x.run.powered = true) (hv : slaveChecks x.desc ff bits order = none)
      (ht : t.bpu = widthToBytes bits) :
      Writes (.ctlModeSlave i ff bits order sss) s t x (x.commitMode (modeWord roleSlave ff bits 0 0 sss) ff bits)
  | setBusSpeed {i v s t x} : Writes (.ctlSetBusSpeed i v) s t x (x.setSpeed v)
  | setDefault {i v s t x} : Writes (.ctlSetDefaultTxValue i v) s t x { x with xfer := { x.xfer with defVal := v } }
  | controlSs {i v s t x} (b : Bool) : Writes (.ctlControlSs i v) s t x (x.driveSs s.slaveNo b)
  | abort {i s t x} : Writes (.ctlAbortTransfer i) s t x { x.clearXfer with run := x.run.clearBusy }
  | accepted {i c tb rb n dir s t x y} (hc : TransferCall i c tb rb n dir) (hconf : x.run.configured = true)
      (ha : Accepted i tb rb n dir s t.dmaEngineEn x y) : Writes c s t x y
  | loseData {i s t x} : Writes (.irq i) s t x x.loseData
  | receiveComplete {i s t x} : Writes (.irq i) s t x (x.drained s.bpu).receiveComplete
  | filler {i s t x} : Writes (.irq i) s t x ((x.drained s.bpu).drWrite (dummyWord s.params))
  | drained {i s t x} : Writes (.irq i) s t x (x.drained s.bpu)
  | sent {i s t x} : Writes (.irq i) s t x (x.sent s.bpu (txUnit x s))
  | dmaTxDone {i s t x} : Writes (.dmaTxDone i) s t x x.txDone
  | dmaRxDone {i s t x} (lines : Vector Bool 4) :
      Writes (.dmaRxDone i) s t x { x.rxDone with hw := { x.hw with ssActive := lines } }
  | dmaTxError {i k s t x} : Writes (.dmaTxError i k) s t x { x with dmaTx := x.dmaTx.delivered }
  | dmaRxError {i k s t x} : Writes (.dmaRxError i k) s t x { x with dmaRx := x.dmaRx.delivered }

/-- The table of `Spi`s after an instruction: as before, or its own one written. -/
def WritesOwn (c : Instr) (s t : State) : Prop :=
  t.spis = s.spis ∨ ∃ x y, s.spi? c.idx = some x ∧ Writes c s t x y ∧ t.spis = setSpi s.spis c.idx y

/-- An event that interrupt context may deliver, or none (43_interrupt_pump.md R214, R215). -/
def Delivers (i : Idx) (s t : State) : Prop :=
  t.evlog = s.evlog ∨ ∃ e : Event, t.evlog = s.evlog ++ [e] ∧ e.inst = i ∧ e.cb ≠ 0 ∧
    (e.mask = evTransferComplete ∨ e.mask = evDataLost)

theorem State.emit_delivers (s t : State) (i : Idx) (cb m : Word) (ht : t.evlog = s.evlog)
    (hm : m = 0 ∨ m = evTransferComplete ∨ m = evDataLost) : Delivers i s (t.emit i cb m) := by
  by_cases h : m ≠ 0 ∧ cb ≠ 0
  · refine .inr ⟨⟨i, cb, m⟩, ?_, rfl, h.2, hm.resolve_left h.1⟩
    rw [State.emit_evlog, ht, if_pos h]
  · refine .inl ?_
    rw [State.emit_evlog, ht, if_neg h, List.append_nil]

/-- One invocation of the handler (R217): the table, the event, and memory, which is as before or has the unit of a
drain; beside these it may hold the context, and no more. -/
theorem handler_eq {i : Idx} {x : Spi} {s : State} (hx : s.spi? i = some x) :
    WritesOwn (.irq i) s (handler i x s) ∧ Delivers i s (handler i x s) ∧
    ((handler i x s).mem = s.mem ∨ (handler i x s).mem = memWrite s.mem x.drainAddr s.bpu x.ser.drIn) ∧
    ((handler i x s).ctx = s.ctx ∨ ∃ k, (handler i x s).ctx = .isrWait i k) ∧
    handler i x s = { s with
      spis := (handler i x s).spis, evlog := (handler i x s).evlog,
        mem := (handler i x s).mem, ctx := (handler i x s).ctx } := by
  have emitted : ∀ (u : State) (m : Word), u.emit i x.run.cb m = { u with evlog := (u.emit i x.run.cb m).evlog } := by
    intro u m
    rw [State.emit_eq]
  obtain h | ⟨-, -, h⟩ | h | ⟨-, -, h⟩ | h := handler_cases i x s
  · rw [h]
    refine ⟨.inr ⟨x, _, hx, .loseData, State.emit_spis ..⟩, State.emit_delivers s _ i _ _ rfl (.inr (.inr rfl)),
      .inl (State.emit_mem ..), .inl (State.emit_ctx ..), ?_⟩
    rw [emitted]; rfl
  · obtain ⟨m, rfl, h' | h' | h'⟩ := drain_cases i x s
    · rw [h, h']
      refine ⟨.inr ⟨x, _, hx, .receiveComplete, State.emit_spis ..⟩, State.emit_delivers s _ i _ _ rfl (.inr (.inl rfl)),
        .inr (State.emit_mem ..), .inl (State.emit_ctx ..), ?_⟩
      rw [emitted]; rfl
    · rw [h, h']
      exact ⟨.inr ⟨x, _, hx, .filler, rfl⟩, .inl rfl, .inr rfl, .inr ⟨_, rfl⟩, rfl⟩
    · rw [h, h']
      exact ⟨.inr ⟨x, _, hx, .drained, rfl⟩, .inl rfl, .inr rfl, .inl rfl, rfl⟩
  · rw [h]
    refine ⟨.inl (State.emit_spis ..), State.emit_delivers s _ i _ _ rfl (.inr (.inr rfl)), .inl (State.emit_mem ..),
      .inl (State.emit_ctx ..), ?_⟩
    rw [emitted]
  · rw [h]
    exact ⟨.inr ⟨x, _, hx, .sent, rfl⟩, .inl rfl, .inl rfl, .inr ⟨_, rfl⟩, rfl⟩
  · rw [h]
    exact ⟨.inl rfl, .inl rfl, .inl rfl, .inl rfl, rfl⟩

end Sys2Proof.Machine

namespace Sys2Proof.Machine

theorem paramsFail_one_eq_false_iff {a n : Word} : paramsFail [a] n = false ↔ a ≠ 0 ∧ n ≠ 0 := by
  simp [paramsFail]

theorem paramsFail_two_eq_false_iff {a b n : Word} : paramsFail [a, b] n = false ↔ (a ≠ 0 ∧ b ≠ 0) ∧ n ≠ 0 := by
  simp [paramsFail]

theorem TransferCall.idx_eq {i : Idx} {c : Instr} {tb rb n : Word} {dir : Tmod} (h : TransferCall i c tb rb n dir) :
    c.idx = i := by
  cases h <;> rfl

theorem TransferCall.count_ne_zero {i : Idx} {c : Instr} {tb rb n : Word} {dir : Tmod}
    (h : TransferCall i c tb rb n dir) : n ≠ 0 := by
  cases h <;> assumption

/-- An instruction writes its own `Spi` at most (60_exceptions.md R276), in one of the forms of `Writes`. -/
theorem exec_writesOwn {c : Instr} {s t : State} (h : exec c s = .next t) : WritesOwn c s t := by
  have written : ∀ {x y : Spi}, s.spi? c.idx = some x → Writes c s t x y → t.spis = setSpi s.spis c.idx y →
      WritesOwn c s t := fun hx hw ht => .inr ⟨_, _, hx, hw, ht⟩
  have accepted : ∀ {i tb rb n dir x}, TransferCall i c tb rb n dir → s.spi? i = some x → x.run.configured = true →
      t = accept i tb rb n dir x s → WritesOwn c s t := by
    intro i tb rb n dir x hc hx hconf ht
    obtain ⟨calls, y, e, r, ha, -, -, h'⟩ := accept_eq i tb rb n dir x s
    rw [h'] at ht
    subst ht
    obtain rfl := hc.idx_eq
    exact .inr ⟨x, y, hx, .accepted hc hconf ha, rfl⟩
  cases (exec_effect h).2 with
  | answer v hp => exact .inl rfl
  | initializeOp hx h0 => exact written hx (.initializeOp h0) rfl
  | uninitializeOp hx => exact written hx .uninitializeOp rfl
  | powerOff hx => exact written hx .powerOff rfl
  | powerFull hx h0 => exact written hx (.powerFull h0) rfl
  | modeInactive hx => exact written hx .modeInactive rfl
  | modeMaster hx hp hv => exact written hx (.modeMaster hp hv rfl) rfl
  | modeSlave hx hp hv => exact written hx (.modeSlave hp hv rfl) rfl
  | setBusSpeed hx => exact written hx .setBusSpeed rfl
  | setDefault hx => exact written hx .setDefault rfl
  | controlSs hx b => exact written hx (.controlSs b) rfl
  | abort hx => exact written hx .abort rfl
  | send hx hf hc =>
    obtain ⟨ha, hn⟩ := paramsFail_one_eq_false_iff.1 hf
    exact accepted (.send ha hn) hx hc rfl
  | receive hx hf hc =>
    obtain ⟨ha, hn⟩ := paramsFail_one_eq_false_iff.1 hf
    exact accepted (.receive ha hn) hx hc rfl
  | transfer hx hf hc =>
    obtain ⟨⟨ha, hb⟩, hn⟩ := paramsFail_two_eq_false_iff.1 hf
    exact accepted (.transfer ha hb hn) hx hc rfl
  | irq hx => exact (handler_eq hx).1
  | dmaTxDone hx hm => exact written hx .dmaTxDone (by rw [State.emit_spis]; rfl)
  | dmaRxDone hx => exact written hx (.dmaRxDone _) (by rw [State.emit_spis, Spi.deassertSs_eq]; rfl)
  | dmaTxError hx => exact written hx .dmaTxError rfl
  | dmaRxError hx => exact written hx .dmaRxError rfl

/-- What is read at `j` after an instruction: the `Spi` as before, or the instruction's own one written. -/
theorem exec_writes {c : Instr} {s t : State} {j : Idx} {x y : Spi} (h : exec c s = .next t) (hx : s.spi? j = some x)
    (hy : t.spi? j = some y) : y = x ∨ (j = c.idx ∧ Writes c s t x y) := by
  obtain ht | ⟨w, z, hw, hwr, ht⟩ := exec_writesOwn h
  · exact .inl (spi?_of_same ht hx hy)
  · obtain ⟨rfl, rfl, rfl⟩ | ⟨-, hyx⟩ := spi?_after_write ht hw hx hy
    · exact .inr ⟨rfl, hwr⟩
    · exact .inl hyx

/-- `Inst` is as before an instruction. -/
theorem exec_insts {c : Instr} {s t : State} (h : exec c s = .next t) : t.insts = s.insts := by
  obtain ht | ⟨x, y, -, -, ht⟩ := exec_writesOwn h
  · rw [State.insts, ht, State.insts]
  · rw [State.insts, ht, map_fst_setSpi, State.insts]

/-- The shared state a host operation may write (60_exceptions.md R263, R266). -/
theorem exec_command_eq {c : Instr} {s t : State} (h : exec c s = .next t) (hp : c.port = .command) :
    t = { s with spis := t.spis, bpu := t.bpu, dmaInit := t.dmaInit, dmaEngineEn := t.dmaEngineEn, xlog := t.xlog, ret := t.ret } := by
  have accepted : ∀ {i tb rb n dir x}, t = accept i tb rb n dir x s → t = { s with
      spis := t.spis, bpu := t.bpu, dmaInit := t.dmaInit, dmaEngineEn := t.dmaEngineEn, xlog := t.xlog, ret := t.ret } := by
    intro i tb rb n dir x ht
    obtain ⟨calls, y, e, r, -, -, -, h'⟩ := accept_eq i tb rb n dir x s
    rw [ht, h']; rfl
  cases (exec_effect h).2 with
  | send hx hf hc => exact accepted rfl
  | receive hx hf hc => exact accepted rfl
  | transfer hx hf hc => exact accepted rfl
  | irq | dmaTxDone | dmaRxDone | dmaTxError | dmaRxError => exact nomatch hp
  | answer | initializeOp | uninitializeOp | powerOff | powerFull | modeInactive | modeMaster | modeSlave | setBusSpeed
  | setDefault | controlSs | abort => rfl

/-- The shared state a stimulus may write, and the event it may deliver (60_exceptions.md R266). -/
theorem exec_stimulus_eq {c : Instr} {s t : State} (h : exec c s = .next t) (hp : c.port = .stimulus) :
    t = { s with spis := t.spis, evlog := t.evlog, mem := t.mem, ctx := t.ctx } ∧ Delivers c.idx s t := by
  have emitted : ∀ {i cb m} (l : List (Idx × Spi)), m = 0 ∨ m = evTransferComplete ∨ m = evDataLost →
      t = ({ s with spis := l } : State).emit i cb m → i = c.idx →
      t = { s with spis := t.spis, evlog := t.evlog, mem := t.mem, ctx := t.ctx } ∧ Delivers c.idx s t := by
    rintro i cb m l hm rfl rfl
    exact ⟨by rw [State.emit_eq], State.emit_delivers s _ _ _ _ rfl hm⟩
  cases (exec_effect h).2 with
  | irq hx =>
    obtain ⟨-, hd, -, -, he⟩ := handler_eq hx
    exact ⟨he, hd⟩
  | dmaTxDone hx hm => exact emitted _ (hm.imp_right .inl) rfl rfl
  | dmaRxDone hx => exact emitted _ (.inr (.inl rfl)) rfl rfl
  | dmaTxError | dmaRxError => exact ⟨rfl, .inl rfl⟩
  | answer v hc => rw [hc] at hp; exact nomatch hp
  | initializeOp | uninitializeOp | powerOff | powerFull | modeInactive | modeMaster | modeSlave | setBusSpeed
  | setDefault | controlSs | abort | send | receive | transfer => exact nomatch hp

/-- No instruction writes the launch parameters, the slave number or the inputs. -/
theorem exec_launch {c : Instr} {s t : State} (h : exec c s = .next t) :
    t.params = s.params ∧ t.slaveNo = s.slaveNo ∧ t.inputs = s.inputs := by
  cases hp : c.port with
  | command =>
    rw [exec_command_eq h hp]
    exact ⟨rfl, rfl, rfl⟩
  | stimulus =>
    rw [(exec_stimulus_eq h hp).1]
    exact ⟨rfl, rfl, rfl⟩

/-- Host operations write the unit size only as a mode select that answers OK, never disable the DMA engine, and append to
the call log (10_state.md R31, R50; 42_transfer_dispatch.md R184). -/
theorem exec_shared {c : Instr} {s t : State} (h : exec c s = .next t) :
    s.xlog <+: t.xlog ∧ (s.dmaEngineEn = true → t.dmaEngineEn = true) ∧
    (t.bpu = s.bpu ∨ (t.ret = Status.ok.word ∧ ∃ i ff bits order ssm sss v,
      (c = .ctlModeMaster i ff bits order ssm v ∨ c = .ctlModeSlave i ff bits order sss) ∧ t.bpu = widthToBytes bits)) := by
  have accepted : ∀ {i tb rb n dir x}, t = accept i tb rb n dir x s → s.xlog <+: t.xlog ∧
      (s.dmaEngineEn = true → t.dmaEngineEn = true) ∧ t.bpu = s.bpu := by
    intro i tb rb n dir x ht
    obtain ⟨calls, y, e, r, -, he, -, h'⟩ := accept_eq i tb rb n dir x s
    rw [ht, h']
    exact ⟨List.prefix_append _ _, he, rfl⟩
  have stimulus (hp : c.port = .stimulus) : s.xlog <+: t.xlog ∧ (s.dmaEngineEn = true → t.dmaEngineEn = true) ∧
      t.bpu = s.bpu := by
    rw [(exec_stimulus_eq h hp).1]
    exact ⟨List.prefix_rfl, id, rfl⟩
  have weaken {P : Prop} : s.xlog <+: t.xlog ∧ (s.dmaEngineEn = true → t.dmaEngineEn = true) ∧ t.bpu = s.bpu →
      s.xlog <+: t.xlog ∧ (s.dmaEngineEn = true → t.dmaEngineEn = true) ∧ (t.bpu = s.bpu ∨ P) :=
    And.imp_right (And.imp_right .inl)
  cases (exec_effect h).2 with
  | initializeOp | powerFull => exact weaken ⟨List.prefix_append _ _, id, rfl⟩
  | modeMaster =>
    exact ⟨List.prefix_rfl, id, .inr ⟨rfl, _, _, _, _, _, 0, _, .inl rfl, rfl⟩⟩
  | modeSlave =>
    exact ⟨List.prefix_rfl, id, .inr ⟨rfl, _, _, _, _, 0, _, 0, .inr rfl, rfl⟩⟩
  | send | receive | transfer => exact weaken (accepted rfl)
  | irq | dmaTxDone | dmaRxDone | dmaTxError | dmaRxError => exact weaken (stimulus rfl)
  | answer | uninitializeOp | powerOff | modeInactive | setBusSpeed | setDefault | controlSs | abort =>
    exact weaken ⟨List.prefix_rfl, id, rfl⟩

/-- Memory after an instruction: as before, or with the unit of a drain (20_memory.md R68, 43_interrupt_pump.md R206). -/
theorem exec_mem {c : Instr} {s t : State} (h : exec c s = .next t) :
    t.mem = s.mem ∨ ∃ i x, c = .irq i ∧ s.spi? i = some x ∧ t.mem = memWrite s.mem x.drainAddr s.bpu x.ser.drIn := by
  cases hp : c.port with
  | command => exact .inl (by rw [exec_command_eq h hp])
  | stimulus =>
    cases (exec_effect h).2 with
    | irq hx =>
      obtain ⟨-, -, hm, -, -⟩ := handler_eq hx
      exact hm.imp_right fun hm => ⟨_, _, rfl, hx, hm⟩
    | dmaTxDone | dmaRxDone => exact .inl (by rw [State.emit_mem]; rfl)
    | answer | initializeOp | uninitializeOp | powerOff | powerFull | modeInactive | modeMaster | modeSlave | setBusSpeed
    | setDefault | controlSs | abort | dmaTxError | dmaRxError => exact .inl rfl
    | send | receive | transfer => exact nomatch hp

end Sys2Proof.Machine

namespace Sys2Proof.Machine

/-! ## What an environment move and phase B write (00_scope.md R15; 43_interrupt_pump.md R216) -/

/-- A channel after a move of the DMA agent: untouched, a beat performed, or a byte of a beat moved (20_memory.md R69,
R81). -/
inductive Channel.Moved (engineEn : Bool) (c : Channel) : Channel → Prop
  | untouched : Moved engineEn c c
  | beat {g k} (hg : c.cfg = some g) (hm : c.mayBeat engineEn g k = true) : Moved engineEn c (c.beatDone k)
  | byte {g k b v data} (hg : c.cfg = some g) (hm : c.mayBeat engineEn g k = true)
      (hb : (c.part k data).mayMove (g.size / 8) b = true) :
      Moved engineEn c (c.withPart ((c.part k data).moved b v))

/-- A `Spi` after an environment move: its inputs, its channels, the data-register log and the read count (10_state.md
R52, R53; 20_memory.md R66). -/
inductive EnvWrites (engineEn : Bool) (x : Spi) : Spi → Prop
  | mk {ser tx rx log n} (htx : x.dmaTx.Moved engineEn tx) (hrx : x.dmaRx.Moved engineEn rx) (hlog : x.drlog <+: log) :
      EnvWrites engineEn x { x with ser := ser, dmaTx := tx, dmaRx := rx, drlog := log, drReads := n }

/-- An environment move that is made writes host memory, keeping its canonical form, and one `Spi` at most. -/
theorem applyEnv_eq {e : EnvMove} {s t : State} (h : applyEnv e s = .next t) :
    ∃ m, (Memory.wf s.mem = true → Memory.wf m = true) ∧ (t = { s with mem := m } ∨
      ∃ i x y, s.spi? i = some x ∧ EnvWrites s.dmaEngineEn x y ∧ t = { s.put i y with mem := m }) := by
  have written : ∀ {i x y} (m : List Host.Cell), s.spi? i = some x → EnvWrites s.dmaEngineEn x y →
      (Memory.wf s.mem = true → Memory.wf m = true) → t = { s.put i y with mem := m } →
      ∃ m, (Memory.wf s.mem = true → Memory.wf m = true) ∧ (t = { s with mem := m } ∨
        ∃ i x y, s.spi? i = some x ∧ EnvWrites s.dmaEngineEn x y ∧ t = { s.put i y with mem := m }) :=
    fun m hx hy hm ht => ⟨m, hm, .inr ⟨_, _, _, hx, hy, ht⟩⟩
  obtain ⟨i, x, ser, hx, rfl⟩ | ⟨i, x, g, base, k, hx, hg, -, hm, rfl⟩ | ⟨i, x, g, base, k, hx, hg, -, hm, rfl⟩ |
    ⟨i, x, g, base, k, b, hx, hg, -, hm, hb, rfl⟩ | ⟨i, x, g, base, k, b, hx, hg, -, hm, hb, rfl⟩ |
    ⟨i, x, v, hx, rfl⟩ | ⟨i, x, a, v, hx, rfl⟩ | ⟨a, b, rfl⟩ := applyEnv_cases h
  · exact written s.mem hx (.mk .untouched .untouched List.prefix_rfl) id rfl
  · exact written s.mem hx (.mk (.beat hg hm) .untouched (List.prefix_append _ _)) id rfl
  · exact written _ hx (.mk .untouched (.beat hg hm) List.prefix_rfl) (wf_memStore _ _ _ _ _ _)
      (by rw [rxBeat, Spi.beginRx_eq])
  · exact written s.mem hx (.mk (.byte hg hm hb) .untouched List.prefix_rfl) id rfl
  · exact written _ hx (.mk .untouched (.byte hg hm hb) List.prefix_rfl) (wf_writeCell _ _ _)
      (by rw [rxByte, Spi.beginRx_eq])
  · exact written s.mem hx (.mk .untouched .untouched (List.prefix_append _ _)) id rfl
  · exact written _ hx (.mk .untouched .untouched List.prefix_rfl) (wf_writeCell _ _ _) rfl
  · exact ⟨_, wf_writeCell _ _ _, .inl rfl⟩

/-- A `Spi` after phase B: TXE masked, and busy cleared or as before (R211). -/
inductive PhaseBWrites (x : Spi) : Spi → Prop
  | transmitComplete : PhaseBWrites x x.transmitComplete
  | masked : PhaseBWrites x { x with hw := x.hw.maskOff srcTxe }

/-- Phase B returns to FOREGROUND, appends to the event log, and writes its own `Spi` at most. -/
theorem phaseB_eq (i : Idx) (k : Cont) (x : Spi) (s : State) :
    ∃ l, s.evlog <+: l ∧ (phaseB i k x s = { s with evlog := l, ctx := .foreground } ∨
      ∃ y, PhaseBWrites x y ∧ phaseB i k x s = { s.put i y with evlog := l, ctx := .foreground }) := by
  obtain h | h | h := phaseB_cases i k x s
  · rw [h, State.emit_eq]
    exact ⟨_, List.prefix_append _ _, .inr ⟨_, .transmitComplete, rfl⟩⟩
  · rw [h]
    exact ⟨_, List.prefix_rfl, .inr ⟨_, .masked, rfl⟩⟩
  · rw [h]
    exact ⟨_, List.prefix_rfl, .inl rfl⟩

end Sys2Proof.Machine

namespace Sys2Proof.Machine

/-! ## Fields of the mode word (10_state.md R23) -/

theorem extractLsb'_append_skip {v w : Nat} (hi : BitVec v) (lo : BitVec w) (start len : Nat) :
    (hi ++ lo).extractLsb' (w + start) len = hi.extractLsb' start len := by
  rw [BitVec.extractLsb'_append_eq_of_le (Nat.le_add_right w start), Nat.add_sub_cancel_left]

section
variable (r : BitVec 8) (ff : BitVec 4) (bits : BitVec 6) (order : BitVec 1) (ssm : BitVec 2) (sss : BitVec 1)

theorem role_modeWord : (modeWord r ff bits order ssm sss).extractLsb' 0 8 = r := BitVec.extractLsb'_append_eq_right

theorem ff_modeWord : (modeWord r ff bits order ssm sss).extractLsb' 8 4 = ff :=
  (extractLsb'_append_skip _ r 0 4).trans BitVec.extractLsb'_append_eq_right

theorem bits_modeWord : (modeWord r ff bits order ssm sss).extractLsb' 12 6 = bits :=
  (extractLsb'_append_skip _ r 4 6).trans <| (extractLsb'_append_skip _ ff 0 6).trans BitVec.extractLsb'_append_eq_right

theorem order_modeWord : (modeWord r ff bits order ssm sss).extractLsb' 18 1 = order :=
  (extractLsb'_append_skip _ r 10 1).trans <| (extractLsb'_append_skip _ ff 6 1).trans <|
    (extractLsb'_append_skip _ bits 0 1).trans BitVec.extractLsb'_append_eq_right

theorem ssm_modeWord : (modeWord r ff bits order ssm sss).extractLsb' 19 2 = ssm :=
  (extractLsb'_append_skip _ r 11 2).trans <| (extractLsb'_append_skip _ ff 7 2).trans <|
    (extractLsb'_append_skip _ bits 1 2).trans <| (extractLsb'_append_skip _ order 0 2).trans
      BitVec.extractLsb'_append_eq_right

theorem sss_modeWord : (modeWord r ff bits order ssm sss).extractLsb' 21 1 = sss :=
  (extractLsb'_append_skip _ r 13 1).trans <| (extractLsb'_append_skip _ ff 9 1).trans <|
    (extractLsb'_append_skip _ bits 3 1).trans <| (extractLsb'_append_skip _ order 2 1).trans
      BitVec.extractLsb'_append_eq_left

end

theorem Runtime.inactiveRole_role (r : Runtime) : r.inactiveRole.role = roleInactive :=
  BitVec.extractLsb'_append_eq_right

/-- `inactiveRole` keeps every field above the role. -/
theorem Runtime.inactiveRole_field (r : Runtime) {start len : Nat} (h : start + len ≤ 14) :
    r.inactiveRole.mode.extractLsb' (8 + start) len = r.mode.extractLsb' (8 + start) len := by
  refine (extractLsb'_append_skip _ roleInactive start len).trans (BitVec.eq_of_getLsbD_eq fun j hj => ?_)
  have hj' : start + j < 14 := by omega
  simp [hj, hj', Nat.add_assoc]

/-! ## The invariant of a channel (10_state.md R49, 20_memory.md R81) -/

theorem Part.ok_iff {g : DmaCfg} {done : List Nat} {p : Part} : p.ok g done = true ↔
    p.beat < g.beats ∧ p.beat ∉ done ∧ (p.bytes.map Prod.fst).Nodup ∧ ∀ b ∈ p.bytes, b.1 < g.size / 8 := by
  simp [Part.ok, and_assoc]

theorem Channel.beatsOk_iff {g : DmaCfg} {c : Channel} : c.beatsOk g = true ↔
    c.done.Nodup ∧ (∀ k ∈ c.done, k < g.beats) ∧ (c.flight.map Part.beat).Nodup ∧ ∀ p ∈ c.flight, p.ok g c.done = true := by
  simp [Channel.beatsOk, and_assoc]

theorem Channel.ok_iff {i : Idx} {d : Dir} {e : Bool} {c : Channel} : c.ok i d e = true ↔
    (∀ g, c.cfg = some g → g.ok i d = true) ∧
    (c.en = true → e = true ∧ ∃ g, c.cfg = some g ∧ (c.stale = true ∨ c.beatsOk g = true)) := by
  cases hg : c.cfg <;> cases hen : c.en <;> simp [Channel.ok, hg, hen, and_assoc]

theorem Channel.mayBeat_iff {e : Bool} {c : Channel} {g : DmaCfg} {k : Nat} : c.mayBeat e g k = true ↔
    e = true ∧ c.en = true ∧ c.stale = false ∧ k < g.beats ∧ k ∉ c.done := by
  simp [Channel.mayBeat, and_assoc]

section
variable {i : Idx} {d : Dir} {e e' : Bool} {c c' : Channel}

theorem Channel.ok_mono (he : e = true → e' = true) (h : c.ok i d e = true) : c.ok i d e' = true := by
  rw [Channel.ok_iff] at h ⊢
  exact h.imp_right fun hen hc => (hen hc).imp_left he

/-- A delivered channel is disabled, so only its config matters. -/
theorem Channel.ok_delivered (h : c.ok i d e = true) : c.delivered.ok i d e = true :=
  Channel.ok_iff.2 ⟨(Channel.ok_iff.1 h).1, fun hen => nomatch hen⟩

theorem Channel.ok_armed {g : DmaCfg} (hg : g.ok i d = true) (ha : c.Armed g e c') (h : c.ok i d e = true) :
    c'.ok i d e = true := by
  cases ha with
  | untouched => exact h
  | configured =>
    exact Channel.ok_iff.2 ⟨fun _ hc => Option.some.inj hc ▸ hg,
      fun hen => ⟨((Channel.ok_iff.1 h).2 hen).1, g, rfl, .inl hen⟩⟩
  | enabled he =>
    refine Channel.ok_iff.2 ⟨fun _ hc => Option.some.inj hc ▸ hg, fun _ => ⟨he, g, rfl, .inr ?_⟩⟩
    exact Channel.beatsOk_iff.2 ⟨.nil, nofun, .nil, nofun⟩

/-- The parts left when one beat is dropped. -/
theorem Channel.mem_dropPart {p : Part} {k : Nat} : p ∈ (c.dropPart k).flight ↔ p ∈ c.flight ∧ p.beat ≠ k := by
  simp [Channel.dropPart]

theorem Channel.nodup_dropPart (k : Nat) (h : (c.flight.map Part.beat).Nodup) :
    ((c.dropPart k).flight.map Part.beat).Nodup :=
  h.sublist (List.filter_sublist.map _)

theorem Channel.beatsOk_beatDone {g : DmaCfg} {k : Nat} (hk : k < g.beats) (hn : k ∉ c.done) (h : c.beatsOk g = true) :
    (c.beatDone k).beatsOk g = true := by
  obtain ⟨hdone, hlt, hflight, hparts⟩ := Channel.beatsOk_iff.1 h
  refine Channel.beatsOk_iff.2 ⟨hdone.cons hn, ?_, Channel.nodup_dropPart k hflight, fun p hp => ?_⟩
  · exact List.forall_mem_cons.2 ⟨hk, hlt⟩
  · obtain ⟨hmem, hne⟩ := Channel.mem_dropPart.1 hp
    obtain ⟨hbeat, hnot, hbytes⟩ := Part.ok_iff.1 (hparts p hmem)
    exact Part.ok_iff.2 ⟨hbeat, by simp [hne, hnot], hbytes⟩

/-- What has moved of a beat that may move is well formed, also when nothing has. -/
theorem Channel.part_ok {g : DmaCfg} {k : Nat} (data : Word) (hk : k < g.beats) (hn : k ∉ c.done)
    (h : c.beatsOk g = true) : (c.part k data).ok g c.done = true ∧ (c.part k data).beat = k := by
  obtain ⟨hmem, hbeat, -⟩ | ⟨hnew, -, -⟩ := c.part_cases k data
  · exact ⟨(Channel.beatsOk_iff.1 h).2.2.2 _ hmem, hbeat⟩
  · rw [hnew]
    exact ⟨Part.ok_iff.2 ⟨hk, hn, .nil, nofun⟩, rfl⟩

theorem Part.moved_ok {g : DmaCfg} {done : List Nat} {p : Part} {b : Nat} (v : Byte)
    (hb : p.mayMove (g.size / 8) b = true) (h : p.ok g done = true) : (p.moved b v).ok g done = true := by
  obtain ⟨hbeat, hnot, hnodup, hlt⟩ := Part.ok_iff.1 h
  obtain ⟨hsize, hnone⟩ : b < g.size / 8 ∧ p.bytes.lookup b = none := by simpa [Part.mayMove] using hb
  have hnew : b ∉ p.bytes.map Prod.fst := by
    rw [List.lookup_eq_none_iff] at hnone
    intro hmem
    obtain ⟨q, hq, rfl⟩ := List.mem_map.1 hmem
    simpa using hnone q hq
  exact Part.ok_iff.2 ⟨hbeat, hnot, List.nodup_cons.2 ⟨hnew, hnodup⟩, List.forall_mem_cons.2 ⟨hsize, hlt⟩⟩

theorem Channel.beatsOk_withPart {g : DmaCfg} {p : Part} (hp : p.ok g c.done = true) (h : c.beatsOk g = true) :
    (c.withPart p).beatsOk g = true := by
  obtain ⟨hdone, hlt, hflight, hparts⟩ := Channel.beatsOk_iff.1 h
  refine Channel.beatsOk_iff.2 ⟨hdone, hlt, List.nodup_cons.2 ⟨fun hmem => ?_, Channel.nodup_dropPart _ hflight⟩, ?_⟩
  · obtain ⟨q, hq, he⟩ := List.mem_map.1 hmem
    exact (Channel.mem_dropPart.1 hq).2 he
  · exact List.forall_mem_cons.2 ⟨hp, fun q hq => hparts q (Channel.mem_dropPart.1 hq).1⟩

theorem Channel.ok_moved (hm : c.Moved e c') (h : c.ok i d e = true) : c'.ok i d e = true := by
  have moved : ∀ {g k} {c' : Channel}, c.cfg = some g → c.mayBeat e g k = true → c'.cfg = c.cfg →
      (k < g.beats → k ∉ c.done → c.beatsOk g = true → c'.beatsOk g = true) → c'.ok i d e = true := by
    intro g k c' hg hmay hcfg hbeats
    obtain ⟨he, hen, hstale, hk, hn⟩ := Channel.mayBeat_iff.1 hmay
    obtain ⟨hcfgok, henabled⟩ := Channel.ok_iff.1 h
    obtain ⟨-, g', hg', hst | hok⟩ := henabled hen
    · rw [hstale] at hst
      exact nomatch hst
    · obtain rfl : g = g' := Option.some.inj (hg.symm.trans hg')
      exact Channel.ok_iff.2 ⟨hcfg ▸ hcfgok, fun _ => ⟨he, g, hcfg.trans hg, .inr (hbeats hk hn hok)⟩⟩
  cases hm with
  | untouched => exact h
  | beat hg hmay => exact moved hg hmay rfl Channel.beatsOk_beatDone
  | byte hg hmay hb =>
    refine moved hg hmay rfl fun hk hn hok => Channel.beatsOk_withPart ?_ hok
    exact Part.moved_ok _ hb (Channel.part_ok _ hk hn hok).1

end

end Sys2Proof.Machine

namespace Sys2Proof.Machine

/-! ## The invariant of one `Spi` (10_state.md R22, R23, R56) -/

theorem Runtime.lifecycleOk_iff {r : Runtime} : r.lifecycleOk = true ↔ r.st = 0 ∨ r.initialized = true := by
  have h0 : r.st = 0 → r.powered = false := fun h => by simp [Runtime.powered, h]
  cases hi : r.initialized <;> simp [Runtime.lifecycleOk, hi]
  exact h0

theorem Runtime.initialized_of_powered {r : Runtime} (h : r.lifecycleOk = true) (hp : r.powered = true) :
    r.initialized = true :=
  (Runtime.lifecycleOk_iff.1 h).resolve_left fun h0 => by simp [Runtime.powered, h0] at hp

theorem firstFailing_eq_none_iff {l : List (Bool × Status)} : firstFailing l = none ↔ ∀ p ∈ l, p.1 = false := by
  induction l with
  | nil => simp [firstFailing]
  | cons p rest ih =>
    obtain ⟨fails, c⟩ := p
    cases fails <;> simp [firstFailing, ih]

theorem masterChecks_eq_none_iff {d : Desc} {k : Fin 4} {ff : BitVec 4} {bits : BitVec 6} {order : BitVec 1}
    {ssm : BitVec 2} : masterChecks d k ff bits order ssm = none ↔ masterBankFails d = false ∧ ssFails d k ssm = false ∧
      ffFails ff = false ∧ bitsFail d bits = false ∧ orderFails order = false := by
  simp [masterChecks, firstFailing_eq_none_iff]

theorem slaveChecks_eq_none_iff {d : Desc} {ff : BitVec 4} {bits : BitVec 6} {order : BitVec 1} :
    slaveChecks d ff bits order = none ↔ slaveBankFails d = false ∧ ffFails ff = false ∧ bitsFail d bits = false ∧
      orderFails order = false := by
  simp [slaveChecks, firstFailing_eq_none_iff]

/-- `Spi.ok` as a proposition, its clauses by name. -/
structure Spi.Ok (i : Idx) (bpu : Nat) (k : Fin 4) (e : Bool) (x : Spi) : Prop where
  lifecycle : x.run.lifecycleOk = true
  noFault : x.run.modeFault = false
  mode : x.run.modeLegal x.desc = true
  config : x.configuredOk k = true
  unit : x.run.configured = true → bpu ≠ 0
  tx : x.dmaTx.ok i .tx e = true
  rx : x.dmaRx.ok i .rx e = true

theorem Spi.ok_iff {i : Idx} {bpu : Nat} {k : Fin 4} {e : Bool} {x : Spi} : x.ok i bpu k e = true ↔ x.Ok i bpu k e := by
  have hunit : (!x.run.configured || bpu != 0) = true ↔ (x.run.configured = true → bpu ≠ 0) := by
    cases x.run.configured <;> simp
  simp only [Spi.ok, Bool.and_eq_true, hunit, Bool.not_eq_true']
  exact ⟨fun ⟨⟨⟨⟨⟨⟨a, b⟩, c⟩, d⟩, u⟩, f⟩, g⟩ => ⟨a, b, c, d, u, f, g⟩,
    fun ⟨a, b, c, d, u, f, g⟩ => ⟨⟨⟨⟨⟨⟨a, b⟩, c⟩, d⟩, u⟩, f⟩, g⟩⟩

/-- What of a `Spi` the invariant speaks of, apart from its lifecycle bits, mode_fault and channels. -/
def Spi.settings (x : Spi) : Desc × BitVec 22 × BitVec 6 × Bool × Bool :=
  (x.desc, x.run.mode, x.hw.dfs, x.hw.spiStd, x.hw.ssSwStart)

namespace Spi.Ok
variable {i : Idx} {bpu : Nat} {k : Fin 4} {e : Bool} {x y : Spi}

theorem mono {bpu' : Nat} {e' : Bool} (hb : bpu ≠ 0 → bpu' ≠ 0) (he : e = true → e' = true) (h : x.Ok i bpu k e) :
    x.Ok i bpu' k e' :=
  { h with
    unit := fun hc => hb (h.unit hc)
    tx := Channel.ok_mono he h.tx
    rx := Channel.ok_mono he h.rx }

/-- A write that leaves CONFIGURED and the settings is judged by its lifecycle bits, mode_fault and channels. -/
theorem of_settings (h : x.Ok i bpu k e) (hs : y.settings = x.settings) (hconf : y.run.configured = x.run.configured)
    (hlife : y.run.lifecycleOk = true) (hfault : y.run.modeFault = false) (htx : y.dmaTx.ok i .tx e = true)
    (hrx : y.dmaRx.ok i .rx e = true) : y.Ok i bpu k e := by
  simp only [Spi.settings, Prod.mk.injEq] at hs
  obtain ⟨hdesc, hmode, hdfs, hstd, hstart⟩ := hs
  refine ⟨hlife, hfault, ?_, ?_, fun hc => h.unit (hconf ▸ hc), htx, hrx⟩
  · rw [Runtime.modeLegal, Runtime.role, Runtime.ff, Runtime.bits, Runtime.order, hmode, hdesc]
    exact h.mode
  · rw [Spi.configuredOk, hconf, Runtime.role, Runtime.ssm, Runtime.sss, Runtime.bits, hmode, hdesc, hdfs, hstd, hstart]
    exact h.config

/-- A write that leaves the lifecycle bits, mode_fault and the settings is judged by its channels. -/
theorem of_channels (h : x.Ok i bpu k e) (hs : y.settings = x.settings) (hst : y.run.st = x.run.st)
    (hfault : y.run.modeFault = x.run.modeFault) (htx : y.dmaTx.ok i .tx e = true) (hrx : y.dmaRx.ok i .rx e = true) :
    y.Ok i bpu k e := by
  refine h.of_settings hs ?_ (Runtime.lifecycleOk_iff.2 ?_) (hfault.trans h.noFault) htx hrx
  · rw [Runtime.configured, hst, Runtime.configured]
  · rw [Runtime.initialized, hst]
    exact Runtime.lifecycleOk_iff.1 h.lifecycle

theorem of_same (h : x.Ok i bpu k e) (hs : y.settings = x.settings) (hst : y.run.st = x.run.st)
    (hfault : y.run.modeFault = x.run.modeFault) (htx : y.dmaTx = x.dmaTx) (hrx : y.dmaRx = x.dmaRx) : y.Ok i bpu k e :=
  h.of_channels hs hst hfault (htx ▸ h.tx) (hrx ▸ h.rx)

theorem initialized (h : x.Ok i bpu k e) (cb : Word) : Spi.Ok i bpu k e
    { x.clearXfer with hw := { x.hw with pinsCfg := true }, run := { x.run.setInitialized with cb := cb } } :=
  h.of_settings rfl (by simp [Runtime.configured]) (Runtime.lifecycleOk_iff.2 (.inr (by simp [Runtime.initialized])))
    h.noFault h.tx h.rx

theorem powerFull (h : x.Ok i bpu k e) (h0 : x.run.initialized = true) : x.powerFull.Ok i bpu k e := by
  refine h.of_settings rfl (by simp [Spi.powerFull, Runtime.configured]) (Runtime.lifecycleOk_iff.2 (.inr ?_)) rfl h.tx h.rx
  simpa [Spi.powerFull, Runtime.initialized] using h0

theorem powerOff (h : x.Ok i bpu k e) : x.powerOff.Ok i bpu k e := by
  refine h.of_settings rfl (by simp [Spi.powerOff, Runtime.configured]) (Runtime.lifecycleOk_iff.2 ?_) rfl h.tx h.rx
  refine (Runtime.lifecycleOk_iff.1 h.lifecycle).imp (fun h0 => ?_) fun h0 => ?_
  · simp [Spi.powerOff, h0]
  · simpa [Spi.powerOff, Runtime.initialized] using h0

theorem modeInactive (h : x.Ok i bpu k e) :
    Spi.Ok i bpu k e { x with run := x.run.inactiveRole.clearConfigured } := by
  have hconf : x.run.inactiveRole.clearConfigured.configured = false := by
    simp [Runtime.configured, Runtime.inactiveRole]
  refine { h with lifecycle := ?_, mode := ?_, config := ?_, unit := fun hc => nomatch hconf.symm.trans hc }
  · refine Runtime.lifecycleOk_iff.2 ((Runtime.lifecycleOk_iff.1 h.lifecycle).imp (fun h0 => ?_) fun h0 => ?_)
    · simp [Runtime.inactiveRole, h0]
    · simpa [Runtime.inactiveRole, Runtime.initialized] using h0
  · have hm := h.mode
    simp only [Runtime.modeLegal, Bool.and_eq_true] at hm ⊢
    obtain ⟨⟨⟨-, hff⟩, hbits⟩, horder⟩ := hm
    refine ⟨⟨⟨?_, ?_⟩, ?_⟩, ?_⟩
    · rw [show x.run.inactiveRole.clearConfigured.role = roleInactive from x.run.inactiveRole_role]
      rfl
    · rw [show x.run.inactiveRole.clearConfigured.ff = x.run.ff from x.run.inactiveRole_field (start := 0) (by decide)]
      exact hff
    · rw [show x.run.inactiveRole.clearConfigured.bits = x.run.bits from
        x.run.inactiveRole_field (start := 4) (by decide)]
      exact hbits
    · rw [show x.run.inactiveRole.clearConfigured.order = x.run.order from
        x.run.inactiveRole_field (start := 10) (by decide)]
      exact horder
  · rw [Spi.configuredOk, hconf]
    rfl

/-- The commit of a mode select whose checks passed (R154): what the invariant asks of the mode word. -/
theorem commitMode (h : x.Ok i bpu k e) (hp : x.run.powered = true) (hbpu : bpu ≠ 0) {r : BitVec 8} {ff : BitVec 4}
    {bits : BitVec 6} {ssm : BitVec 2} {sss : BitVec 1}
    (hrole : (r = roleMaster ∧ masterBankFails x.desc = false ∧ ssFails x.desc k ssm = false ∧ sss = 0) ∨
      (r = roleSlave ∧ slaveBankFails x.desc = false ∧ ssm = 0))
    (hff : ffFails ff = false) (hbits : bitsFail x.desc bits = false) :
    (x.commitMode (modeWord r ff bits 0 ssm sss) ff bits).Ok i bpu k e := by
  have hr : Runtime.role (x.commitMode (modeWord r ff bits 0 ssm sss) ff bits).run = r := role_modeWord ..
  have hf : Runtime.ff (x.commitMode (modeWord r ff bits 0 ssm sss) ff bits).run = ff := ff_modeWord ..
  have hb : Runtime.bits (x.commitMode (modeWord r ff bits 0 ssm sss) ff bits).run = bits := bits_modeWord ..
  have ho : Runtime.order (x.commitMode (modeWord r ff bits 0 ssm sss) ff bits).run = 0 := order_modeWord ..
  have hsm : Runtime.ssm (x.commitMode (modeWord r ff bits 0 ssm sss) ff bits).run = ssm := ssm_modeWord ..
  have hss : Runtime.sss (x.commitMode (modeWord r ff bits 0 ssm sss) ff bits).run = sss := sss_modeWord ..
  refine { h with lifecycle := ?_, mode := ?_, config := ?_, unit := fun _ => hbpu }
  · refine Runtime.lifecycleOk_iff.2 (.inr ?_)
    simpa [Spi.commitMode, Runtime.initialized] using Runtime.initialized_of_powered h.lifecycle hp
  · have hlegal : r.toNat ≤ 2 := by
      obtain ⟨rfl, -⟩ | ⟨rfl, -⟩ := hrole <;> decide
    rw [Runtime.modeLegal, hr, hf, hb, ho]
    simp [Spi.commitMode, hlegal, hff, hbits]
  · rw [Spi.configuredOk, hr, hsm, hss, hb]
    obtain ⟨rfl, hbank, hssm, rfl⟩ | ⟨rfl, hbank, rfl⟩ := hrole
    · simp [Spi.commitMode, hbank, hssm, hbits]
    · simp [Spi.commitMode, hbank, hbits]

theorem uninitialize (h : x.Ok i bpu k e) : Spi.Ok i bpu k e { x with run := .zeroed } := by
  have hconf : Runtime.zeroed.configured = false := by decide
  refine ⟨Runtime.lifecycleOk_iff.2 (.inl rfl), rfl, ?_, ?_, fun hc => (nomatch hconf.symm.trans hc), h.tx, h.rx⟩
  · simp [Runtime.modeLegal, Runtime.zeroed, Runtime.role, Runtime.ff, Runtime.bits, Runtime.order, ffFails]
  · rw [Spi.configuredOk, hconf]
    rfl

end Spi.Ok

theorem widthToBytes_cases (bits : BitVec 6) : widthToBytes bits = 1 ∨ widthToBytes bits = 2 ∨ widthToBytes bits = 4 := by
  unfold widthToBytes
  split
  · exact .inl rfl
  · split
    · exact .inr (.inl rfl)
    · exact .inr (.inr rfl)

theorem bpuLegal_iff {bpu : Nat} : bpuLegal bpu = true ↔ bpu = 0 ∨ bpu = 1 ∨ bpu = 2 ∨ bpu = 4 := by
  simp [bpuLegal, or_assoc]

theorem memorySide_isMem (a b : Word) : (memorySide a b).1.isMem = true := by
  unfold memorySide
  split <;> rfl

/-- With a unit of 1, 2 or 4 bytes and a count that is not 0, a transfer's size and beats are legal (R49, R180). -/
theorem transferSize_ok {bpu : Nat} {n : Word} (hlegal : bpuLegal bpu = true) (hbpu : bpu ≠ 0) (hn : n ≠ 0) :
    (8 * bpu = 8 ∨ 8 * bpu = 16 ∨ 8 * bpu = 32) ∧ 1 ≤ beatCount n ∧ beatCount n ≤ Config.dmaMaxBeats := by
  have hn' : n.toNat ≠ 0 := fun h => hn (BitVec.eq_of_toNat_eq h)
  have hmax : Config.dmaMaxBeats = 1023 := rfl
  obtain h | h := bpuLegal_iff.1 hlegal
  · exact absurd h hbpu
  · exact ⟨by omega, by rw [beatCount]; omega, by rw [beatCount]; omega⟩

theorem txConfig_ok (i : Idx) (p : Params) {bpu : Nat} {n : Word} (tb : Word) (hlegal : bpuLegal bpu = true)
    (hbpu : bpu ≠ 0) (hn : n ≠ 0) : (txConfig i p bpu n tb).ok i .tx = true := by
  obtain ⟨hsize, hmin, hmax⟩ := transferSize_ok hlegal hbpu hn
  have hbeats : 0 < beatCount n := hmin
  obtain h | h | h := hsize <;> simp [DmaCfg.ok, txConfig, h, memorySide_isMem, hmax] <;> omega

theorem rxConfig_ok (i : Idx) (p : Params) {bpu : Nat} {n : Word} (rb : Word) (hlegal : bpuLegal bpu = true)
    (hbpu : bpu ≠ 0) (hn : n ≠ 0) : (rxConfig i p bpu n rb).ok i .rx = true := by
  obtain ⟨hsize, hmin, hmax⟩ := transferSize_ok hlegal hbpu hn
  obtain h | h | h := hsize <;> simp [DmaCfg.ok, rxConfig, h, memorySide_isMem, hmax] <;> omega

end Sys2Proof.Machine

namespace Sys2Proof.Machine

namespace Spi.Ok
variable {i : Idx} {x y : Spi}

/-- An accepted transfer arms its channels with legal configs; the rest of the `Spi`'s invariant is as before. -/
theorem accepted {s : State} {e : Bool} {tb rb n : Word} {dir : Tmod} (ha : Accepted i tb rb n dir s e x y) (hn : n ≠ 0)
    (hlegal : bpuLegal s.bpu = true) (hconf : x.run.configured = true) (h : x.Ok i s.bpu s.slaveNo e) :
    y.Ok i s.bpu s.slaveNo e := by
  have hbpu := h.unit hconf
  cases ha with
  | unmasked => exact ⟨h.lifecycle, rfl, h.mode, h.config, h.unit, h.tx, h.rx⟩
  | armed _ htx hrx =>
    exact ⟨h.lifecycle, rfl, h.mode, h.config, h.unit, Channel.ok_armed (txConfig_ok i s.params tb hlegal hbpu hn) htx h.tx,
      Channel.ok_armed (rxConfig_ok i s.params rb hlegal hbpu hn) hrx h.rx⟩

/-- Whatever an instruction writes of its `Spi` keeps that `Spi`'s invariant. -/
theorem writes {c : Instr} {s t : State} (hw : Writes c s t x y) (hlegal : bpuLegal s.bpu = true)
    (hbpu : s.bpu ≠ 0 → t.bpu ≠ 0) (he : s.dmaEngineEn = true → t.dmaEngineEn = true)
    (h : x.Ok c.idx s.bpu s.slaveNo s.dmaEngineEn) : y.Ok c.idx t.bpu s.slaveNo t.dmaEngineEn := by
  have h' := h.mono hbpu he
  have width : ∀ {bits}, t.bpu = widthToBytes bits → t.bpu ≠ 0 := by
    intro bits ht
    have := widthToBytes_cases bits
    omega
  cases hw with
  | initializeOp => exact h'.initialized _
  | uninitializeOp => exact h'.uninitialize
  | powerOff => exact h'.powerOff
  | powerFull h0 => exact h'.powerFull h0
  | modeInactive => exact h'.modeInactive
  | modeMaster hp hv ht =>
    obtain ⟨hbank, hssm, hff, hbits, -⟩ := masterChecks_eq_none_iff.1 hv
    exact (h'.commitMode hp (width ht) (.inl ⟨rfl, hbank, hssm, rfl⟩) hff hbits).of_same rfl rfl rfl rfl rfl
  | modeSlave hp hv ht =>
    obtain ⟨hbank, hff, hbits, -⟩ := slaveChecks_eq_none_iff.1 hv
    exact h'.commitMode hp (width ht) (.inr ⟨rfl, hbank, rfl⟩) hff hbits
  | accepted hc hconf ha =>
    obtain rfl := hc.idx_eq
    exact (accepted ha hc.count_ne_zero hlegal hconf (h.mono id he)).mono hbpu id
  | dmaTxDone => exact h'.of_channels rfl rfl rfl (Channel.ok_delivered h'.tx) h'.rx
  | dmaRxDone => exact h'.of_channels rfl rfl rfl h'.tx (Channel.ok_delivered h'.rx)
  | dmaTxError => exact h'.of_channels rfl rfl rfl (Channel.ok_delivered h'.tx) h'.rx
  | dmaRxError => exact h'.of_channels rfl rfl rfl h'.tx (Channel.ok_delivered h'.rx)
  | setBusSpeed | setDefault | controlSs | abort | loseData | receiveComplete | filler | drained | sent =>
    exact h'.of_same rfl rfl rfl rfl rfl

theorem envWrites {bpu : Nat} {k : Fin 4} {e : Bool} (hw : EnvWrites e x y) (h : x.Ok i bpu k e) : y.Ok i bpu k e := by
  obtain ⟨htx, hrx, -⟩ := hw
  exact h.of_channels rfl rfl rfl (Channel.ok_moved htx h.tx) (Channel.ok_moved hrx h.rx)

theorem phaseBWrites {bpu : Nat} {k : Fin 4} {e : Bool} (hw : PhaseBWrites x y) (h : x.Ok i bpu k e) : y.Ok i bpu k e := by
  cases hw <;> exact h.of_same rfl rfl rfl rfl rfl

end Spi.Ok

/-! ## The invariant of the machine (10_state.md section 11) -/

theorem findSpi_eq_some_iff {l : List (Idx × Spi)} (hl : (l.map Prod.fst).Nodup) {i : Idx} {x : Spi} :
    findSpi l i = some x ↔ (i, x) ∈ l := by
  refine ⟨mem_of_findSpi l i x, fun hmem => ?_⟩
  cases hy : findSpi l i with
  | none => exact absurd (List.mem_map_of_mem hmem) ((findSpi_eq_none_iff l i).1 hy)
  | some y =>
    have := List.inj_on_of_nodup_map hl (mem_of_findSpi l i y hy) hmem rfl
    rw [(Prod.mk.inj this).2]

theorem State.mem_insts_iff {s : State} {i : Idx} : i ∈ s.insts ↔ ∃ x, s.spi? i = some x := by
  rw [← not_iff_not, ← State.spi?_eq_none_iff, ← Option.isSome_iff_exists, Option.not_isSome_iff_eq_none]

theorem State.ctxOk_iff {s : State} : s.ctxOk = true ↔ ∀ i k, s.ctx = .isrWait i k → i ∈ s.insts := by
  rw [State.ctxOk]
  split
  · rename_i h
    simp [h]
  · rename_i i k h
    simp only [h, Ctx.isrWait.injEq, State.mem_insts_iff, Option.isSome_iff_exists]
    exact ⟨fun hi _ _ ⟨hj, _⟩ => hj ▸ hi, fun hi => hi i k ⟨rfl, rfl⟩⟩

/-- `State.inv` as a proposition, its clauses by name. -/
structure State.Inv (s : State) : Prop where
  mem : Memory.wf s.mem = true
  bpu : bpuLegal s.bpu = true
  ctx : ∀ i k, s.ctx = .isrWait i k → i ∈ s.insts
  nodup : s.insts.Nodup
  spis : ∀ i x, s.spi? i = some x → x.Ok i s.bpu s.slaveNo s.dmaEngineEn

theorem State.inv_iff {s : State} : s.inv = true ↔ s.Inv := by
  have hspis : s.insts.Nodup → ((∀ p ∈ s.spis, p.2.ok p.1 s.bpu s.slaveNo s.dmaEngineEn = true) ↔
      ∀ i x, s.spi? i = some x → x.Ok i s.bpu s.slaveNo s.dmaEngineEn) := by
    intro hn
    refine ⟨fun h i x hx => Spi.ok_iff.1 (h (i, x) (mem_of_findSpi _ _ _ hx)), fun h p hp => Spi.ok_iff.2 (h p.1 p.2 ?_)⟩
    exact (findSpi_eq_some_iff hn).2 hp
  simp only [State.inv, Bool.and_eq_true, State.ctxOk_iff, decide_eq_true_eq, List.all_eq_true]
  exact ⟨fun ⟨⟨⟨⟨a, b⟩, c⟩, d⟩, e⟩ => ⟨a, b, c, d, (hspis d).1 e⟩,
    fun ⟨a, b, c, d, e⟩ => ⟨⟨⟨⟨a, b⟩, c⟩, d⟩, (hspis d).2 e⟩⟩

/-- The invariant after a step that keeps `Inst`: each member is judged against itself before. -/
theorem State.Inv.of_insts {s t : State} (h : s.Inv) (hi : t.insts = s.insts) (hmem : Memory.wf t.mem = true)
    (hbpu : bpuLegal t.bpu = true) (hctx : ∀ i k, t.ctx = .isrWait i k → i ∈ s.insts)
    (hspis : ∀ i x y, s.spi? i = some x → t.spi? i = some y → x.Ok i s.bpu s.slaveNo s.dmaEngineEn →
      y.Ok i t.bpu t.slaveNo t.dmaEngineEn) : t.Inv := by
  refine ⟨hmem, hbpu, hi ▸ hctx, hi ▸ h.nodup, fun i y hy => ?_⟩
  obtain ⟨x, hx⟩ := State.mem_insts_iff.1 (hi ▸ State.mem_insts_iff.2 ⟨y, hy⟩ : i ∈ s.insts)
  exact hspis i x y hx hy (h.spis i x hx)

/-- The invariant after a write of one `Spi` that leaves the shared settings and the set of those that wait. -/
theorem State.Inv.of_put {s t : State} {i : Idx} {x z : Spi} (h : s.Inv) (hx : s.spi? i = some x)
    (hz : x.Ok i s.bpu s.slaveNo s.dmaEngineEn → z.Ok i s.bpu s.slaveNo s.dmaEngineEn) (hspis : t.spis = setSpi s.spis i z)
    (hmem : Memory.wf t.mem = true) (hctx : t.ctx = s.ctx ∨ t.ctx = .foreground)
    (hshared : t.bpu = s.bpu ∧ t.slaveNo = s.slaveNo ∧ t.dmaEngineEn = s.dmaEngineEn) : t.Inv := by
  obtain ⟨hbpu, hslave, hen⟩ := hshared
  refine h.of_insts (by rw [State.insts, hspis, map_fst_setSpi, State.insts]) hmem (hbpu ▸ h.bpu) (fun j k hj => ?_) ?_
  · obtain hctx | hctx := hctx
    · exact h.ctx j k (hctx ▸ hj)
    · exact nomatch hctx.symm.trans hj
  · intro j v w hv hw hok
    rw [hbpu, hslave, hen]
    obtain ⟨rfl, rfl, rfl⟩ | ⟨-, rfl⟩ := spi?_after_write hspis hx hv hw
    · exact hz hok
    · exact hok

/-- The context after an instruction: FOREGROUND, or a spin-wait of its own index, a member of `Inst`. -/
theorem exec_ctx {c : Instr} {s t : State} (h : exec c s = .next t) :
    t.ctx = .foreground ∨ ∃ k, t.ctx = .isrWait c.idx k ∧ c.idx ∈ s.insts := by
  obtain ⟨hctx, he⟩ := exec_effect h
  cases hp : c.port with
  | command => exact .inl (by rw [exec_command_eq h hp]; exact hctx)
  | stimulus =>
    cases he with
    | irq hx =>
      obtain ⟨-, -, -, hk, -⟩ := handler_eq hx
      exact hk.imp hctx.symm.substr fun ⟨k, hk⟩ => ⟨k, hk, State.mem_insts_iff.2 ⟨_, hx⟩⟩
    | dmaTxDone | dmaRxDone => exact .inl (by rw [State.emit_ctx]; exact hctx)
    | answer | initializeOp | uninitializeOp | powerOff | powerFull | modeInactive | modeMaster | modeSlave | setBusSpeed
    | setDefault | controlSs | abort | dmaTxError | dmaRxError => exact .inl hctx
    | send | receive | transfer => exact nomatch hp

theorem State.Inv.exec {c : Instr} {s t : State} (hs : s.Inv) (h : exec c s = .next t) : t.Inv := by
  obtain ⟨-, hslave, -⟩ := exec_launch h
  obtain ⟨-, hen, hbpu⟩ := exec_shared h
  have hunit : bpuLegal t.bpu = true ∧ (s.bpu ≠ 0 → t.bpu ≠ 0) := by
    obtain hbpu | ⟨-, _, _, bits, _, _, _, _, -, hbpu⟩ := hbpu
    · rw [hbpu]
      exact ⟨hs.bpu, id⟩
    · have := widthToBytes_cases bits
      rw [hbpu, bpuLegal_iff]
      exact ⟨.inr this, fun _ => by omega⟩
  have hmem : Memory.wf t.mem = true := by
    obtain hm | ⟨_, _, -, -, hm⟩ := exec_mem h
    · exact hm ▸ hs.mem
    · exact hm ▸ wf_memWrite _ _ _ _ hs.mem
  refine hs.of_insts (exec_insts h) hmem hunit.1 (fun j k hj => ?_) fun j x y hx hy hok => ?_
  · obtain hf | ⟨k', hk, hmem⟩ := exec_ctx h
    · exact nomatch hf.symm.trans hj
    · cases hk.symm.trans hj
      exact hmem
  · rw [hslave]
    obtain rfl | ⟨rfl, hw⟩ := exec_writes h hx hy
    · exact hok.mono hunit.2 hen
    · exact Spi.Ok.writes hw hs.bpu hunit.2 hen hok

theorem State.Inv.applyEnv {e : EnvMove} {s t : State} (hs : s.Inv) (h : applyEnv e s = .next t) : t.Inv := by
  obtain ⟨m, hm, rfl | ⟨i, x, y, hx, hw, rfl⟩⟩ := applyEnv_eq h
  · exact { hs with mem := hm hs.mem }
  · exact hs.of_put hx (Spi.Ok.envWrites hw) rfl (hm hs.mem) (.inl rfl) ⟨rfl, rfl, rfl⟩

theorem State.Inv.phaseB {i : Idx} {x : Spi} {s : State} (k : Cont) (hs : s.Inv) (hx : s.spi? i = some x) :
    (phaseB i k x s).Inv := by
  obtain ⟨l, -, h | ⟨y, hw, h⟩⟩ := phaseB_eq i k x s
  · rw [h]
    exact { hs with ctx := nofun }
  · rw [h]
    exact hs.of_put hx (Spi.Ok.phaseBWrites hw) rfl hs.mem (.inr rfl) ⟨rfl, rfl, rfl⟩

/-- Settles O3: by what moved in the step. The invariant does not speak of the inputs, so it holds of the state without
the one taken; there the instruction, the environment's move or phase B keeps it. -/
theorem everyStepKeepsInvariant : Obligations.EveryStepKeepsInvariant := by
  intro s t hs h
  rw [State.inv_iff] at hs ⊢
  have taken : ∀ rest, ({ s with inputs := rest } : State).Inv := fun _ => { hs with }
  obtain ⟨rest, rfl⟩ | ⟨rest, c, hc⟩ | ⟨rest, c, -, rfl⟩ | ⟨rest, e, he⟩ |
    ⟨i, k, x, rest, -, hx, -, rfl⟩ := step_cases h
  · exact taken rest
  · exact (taken rest).exec hc
  · exact { taken rest with }
  · exact (taken rest).applyEnv he
  · exact (taken rest).phaseB k hx

end Sys2Proof.Machine

namespace Sys2Proof

/-! ## Decoding the encoder's frames (30_encoding.md R91, R97)

The fields of a frame whose command word or control word the encoder wrote, as `simp` reads them. -/

section
variable (op : BitVec 8) (i : Idx) (a b c : Word)

@[simp] theorem Frame.op_mk : Frame.op ⟨cmdWord op i, a, b, c⟩ = op := op_cmdWord op i
@[simp] theorem Frame.inst_mk : Frame.inst ⟨cmdWord op i, a, b, c⟩ = i := inst_cmdWord op i
@[simp] theorem Frame.zero_mk : Frame.zero ⟨cmdWord op i, a, b, c⟩ = 0 := zero_cmdWord op i

end

section
variable (w b c : Word) (code : BitVec 8) (ff : BitVec 4) (bits : BitVec 6) (order : BitVec 1) (ssm : BitVec 2)
  (sss : BitVec 1)

@[simp] theorem Frame.code_mk : Frame.code ⟨w, controlWord code ff bits order ssm sss, b, c⟩ = code := code_controlWord ..
@[simp] theorem Frame.ff_mk : Frame.ff ⟨w, controlWord code ff bits order ssm sss, b, c⟩ = ff := ff_controlWord ..
@[simp] theorem Frame.bits_mk : Frame.bits ⟨w, controlWord code ff bits order ssm sss, b, c⟩ = bits := bits_controlWord ..
@[simp] theorem Frame.order_mk : Frame.order ⟨w, controlWord code ff bits order ssm sss, b, c⟩ = order :=
  order_controlWord ..
@[simp] theorem Frame.ssm_mk : Frame.ssm ⟨w, controlWord code ff bits order ssm sss, b, c⟩ = ssm := ssm_controlWord ..
@[simp] theorem Frame.sss_mk : Frame.sss ⟨w, controlWord code ff bits order ssm sss, b, c⟩ = sss := sss_controlWord ..

end

theorem decode_command_mk (op : BitVec 8) (i : Idx) (a b c : Word) :
    decode .command ⟨cmdWord op i, a, b, c⟩ = decodeOperation ⟨cmdWord op i, a, b, c⟩ :=
  if_pos (zero_cmdWord op i)

theorem decode_stimulus_mk (op : BitVec 8) (i : Idx) (a b c : Word) :
    decode .stimulus ⟨cmdWord op i, a, b, c⟩ = decodeEvent ⟨cmdWord op i, a, b, c⟩ :=
  if_pos (zero_cmdWord op i)

/-- A CONTROL frame is decoded by its control code (R98). -/
theorem decode_control_mk (i : Idx) (a b c : Word) :
    decode .command ⟨cmdWord 0x04 i, a, b, c⟩ = decodeControl ⟨cmdWord 0x04 i, a, b, c⟩ := by
  simp [decode_command_mk, decodeOperation]

/-- A POWERCONTROL frame is decoded by its state number (R96). -/
theorem decode_power_mk (i : Idx) (a b c : Word) :
    decode .command ⟨cmdWord 0x03 i, a, b, c⟩ = decodePower ⟨cmdWord 0x03 i, a, b, c⟩ := by
  simp [decode_command_mk, decodeOperation]

/-- Settles O5: instruction by instruction, along the decoder's levels: the port, `OP`, and for POWERCONTROL, CONTROL and
the DMA events what selects the row within `OP`. Only the error events use `kindOk`. -/
theorem decodeOfEncodeIsIdentity : Obligations.DecodeOfEncodeIsIdentity := by
  intro x hkind
  cases x with
  | powerOff | powerLow | powerFull => exact (decode_power_mk ..).trans (by simp [decodePower])
  | ctlModeInactive | ctlModeMaster | ctlModeSlave | ctlSetBusSpeed | ctlGetBusSpeed | ctlSetDefaultTxValue | ctlControlSs
  | ctlAbortTransfer => exact (decode_control_mk ..).trans (by simp [decodeControl])
  | initializeOp | uninitializeOp | send | receive | transfer | getDataCount | getStatus =>
    exact (decode_command_mk ..).trans (by simp [decodeOperation])
  | irq | dmaTxDone | dmaRxDone => exact (decode_stimulus_mk ..).trans (by simp [decodeEvent])
  | dmaTxError i kind | dmaRxError i kind =>
    have hne : kind ≠ 0 := by simpa [Instr.kindOk] using hkind
    exact (decode_stimulus_mk ..).trans (by simpa [decodeEvent] using hne)

end Sys2Proof

namespace Sys2Proof

/-! ## The decoder and the opcode table (30_encoding.md R95): three kinds of row, by what of `A0` selects it -/

section
variable {f : Frame} {name : String} {p : Port}

/-- A row whose `OP` alone selects it. -/
theorem accepts_op_row {op : BitVec 8} :
    TableRow.accepts ⟨name, p, 0#32 ++ op.setWidth 32, 0#32 ++ 0xFFFF00FF#32⟩ f.decodeWord = true ↔ f.zero = 0 ∧ f.op = op := by
  rw [TableRow.accepts_iff _ f op 0 0 rfl rfl]
  exact and_iff_right BitVec.and_zero

/-- A row of CONTROL, which the control code selects. -/
theorem accepts_code_row {code : BitVec 8} :
    TableRow.accepts ⟨name, p, code.setWidth 32 ++ (0x04#8).setWidth 32, 0xFF#32 ++ 0xFFFF00FF#32⟩ f.decodeWord = true ↔
      f.code = code ∧ f.zero = 0 ∧ f.op = 0x04 := by
  rw [TableRow.accepts_iff _ f 0x04 0xFF (code.setWidth 32) rfl rfl]
  exact and_congr_left' (a0_and_low8 f code)

/-- A row that all of `A0` selects. -/
theorem accepts_arg_row {op : BitVec 8} {a : Word} :
    TableRow.accepts ⟨name, p, a ++ op.setWidth 32, 0xFFFFFFFF#32 ++ 0xFFFF00FF#32⟩ f.decodeWord = true ↔
      f.a0 = a ∧ f.zero = 0 ∧ f.op = op := by
  rw [TableRow.accepts_iff _ f op 0xFFFFFFFF a rfl rfl]
  exact and_congr_left' (iff_of_eq (congrArg (· = a) BitVec.and_allOnes))

end

/-- The table by kind of row: those that `OP` selects, those of CONTROL, those that all of `A0` selects. -/
def opRows : List (String × Port × BitVec 8) :=
  [("INITIALIZE", .command, 0x01), ("UNINITIALIZE", .command, 0x02), ("SEND", .command, 0x05), ("RECEIVE", .command, 0x06),
   ("TRANSFER", .command, 0x07), ("GETDATACOUNT", .command, 0x08), ("GETSTATUS", .command, 0x09), ("IRQ", .stimulus, 0x10)]

def codeRows : List (String × BitVec 8) :=
  [("CTL_MODE_INACTIVE", 0x00), ("CTL_MODE_MASTER", 0x01), ("CTL_MODE_SLAVE", 0x02), ("CTL_SET_BUS_SPEED", 0x10),
   ("CTL_GET_BUS_SPEED", 0x11), ("CTL_SET_DEFAULT_TX_VALUE", 0x12), ("CTL_CONTROL_SS", 0x13), ("CTL_ABORT_TRANSFER", 0x14)]

def argRows : List (String × Port × BitVec 8 × Word) :=
  [("POWER_OFF", .command, 0x03, 0), ("POWER_LOW", .command, 0x03, 1), ("POWER_FULL", .command, 0x03, 2),
   ("DMA_TX_DONE", .stimulus, 0x11, 0), ("DMA_TX_ERROR", .stimulus, 0x11, 1), ("DMA_RX_DONE", .stimulus, 0x12, 0),
   ("DMA_RX_ERROR", .stimulus, 0x12, 1)]

/-- What a row accepts, by its kind: the frame carries the row's selector. -/
def Selects (n : String) (p : Port) (f : Frame) : Prop :=
  f.zero = 0 ∧ ((n, p, f.op) ∈ opRows ∨ (p = .command ∧ f.op = 0x04 ∧ (n, f.code) ∈ codeRows) ∨
    (n, p, f.op, f.a0) ∈ argRows)

/-- The three lists are the table. -/
theorem mem_opcodeTable_iff {r : TableRow} : r ∈ opcodeTable ↔
    (∃ q ∈ opRows, r = ⟨q.1, q.2.1, 0#32 ++ q.2.2.setWidth 32, 0#32 ++ 0xFFFF00FF#32⟩) ∨
    (∃ q ∈ codeRows, r = ⟨q.1, .command, q.2.setWidth 32 ++ (0x04#8).setWidth 32, 0xFF#32 ++ 0xFFFF00FF#32⟩) ∨
    (∃ q ∈ argRows, r = ⟨q.1, q.2.1, q.2.2.2 ++ q.2.2.1.setWidth 32, 0xFFFFFFFF#32 ++ 0xFFFF00FF#32⟩) := by
  constructor
  · revert r
    decide
  · have hop : ∀ q ∈ opRows, TableRow.mk q.1 q.2.1 (0#32 ++ q.2.2.setWidth 32) (0#32 ++ 0xFFFF00FF#32) ∈ opcodeTable := by
      decide
    have hcode : ∀ q ∈ codeRows, TableRow.mk q.1 .command (q.2.setWidth 32 ++ (0x04#8).setWidth 32)
        (0xFF#32 ++ 0xFFFF00FF#32) ∈ opcodeTable := by decide
    have harg : ∀ q ∈ argRows, TableRow.mk q.1 q.2.1 (q.2.2.2 ++ q.2.2.1.setWidth 32)
        (0xFFFFFFFF#32 ++ 0xFFFF00FF#32) ∈ opcodeTable := by decide
    rintro (⟨q, hq, rfl⟩ | ⟨q, hq, rfl⟩ | ⟨q, hq, rfl⟩)
    · exact hop q hq
    · exact hcode q hq
    · exact harg q hq

theorem exists_row_iff {n : String} {p : Port} {f : Frame} :
    (∃ r ∈ opcodeTable, r.mnemonic = n ∧ r.port = p ∧ r.accepts f.decodeWord = true) ↔ Selects n p f := by
  constructor
  · rintro ⟨r, hr, rfl, rfl, ha⟩
    obtain ⟨q, hq, rfl⟩ | ⟨q, hq, rfl⟩ | ⟨q, hq, rfl⟩ := mem_opcodeTable_iff.1 hr
    · obtain ⟨hz, ho⟩ := accepts_op_row.1 ha
      exact ⟨hz, .inl (by rw [ho]; exact hq)⟩
    · obtain ⟨hc, hz, ho⟩ := accepts_code_row.1 ha
      exact ⟨hz, .inr (.inl ⟨rfl, ho, by rw [hc]; exact hq⟩)⟩
    · obtain ⟨hc, hz, ho⟩ := accepts_arg_row.1 ha
      exact ⟨hz, .inr (.inr (by rw [hc, ho]; exact hq))⟩
  · rintro ⟨hz, hq | ⟨rfl, ho, hq⟩ | hq⟩
    · exact ⟨_, mem_opcodeTable_iff.2 (.inl ⟨_, hq, rfl⟩), rfl, rfl, accepts_op_row.2 ⟨hz, rfl⟩⟩
    · exact ⟨_, mem_opcodeTable_iff.2 (.inr (.inl ⟨_, hq, rfl⟩)), rfl, rfl, accepts_code_row.2 ⟨rfl, hz, ho⟩⟩
    · exact ⟨_, mem_opcodeTable_iff.2 (.inr (.inr ⟨_, hq, rfl⟩)), rfl, rfl, accepts_arg_row.2 ⟨rfl, hz, rfl⟩⟩

theorem decodeControl_of_selects {n : String} {f : Frame} (hq : (n, f.code) ∈ codeRows) :
    ∃ x, decodeControl f = .ok x ∧ x.mnemonic = n := by
  simp only [codeRows, List.mem_cons, Prod.mk.injEq, List.not_mem_nil, or_false] at hq
  obtain ⟨rfl, hc⟩ | ⟨rfl, hc⟩ | ⟨rfl, hc⟩ | ⟨rfl, hc⟩ |
    ⟨rfl, hc⟩ | ⟨rfl, hc⟩ | ⟨rfl, hc⟩ | ⟨rfl, hc⟩ := hq <;>
    simp [decodeControl, hc, Instr.mnemonic]

theorem decode_of_selects {n : String} {p : Port} {f : Frame} (h : Selects n p f) :
    ∃ x, decode p f = .ok x ∧ x.mnemonic = n := by
  obtain ⟨hz, hq | ⟨rfl, ho, hq⟩ | hq⟩ := h
  · simp only [opRows, List.mem_cons, Prod.mk.injEq, List.not_mem_nil, or_false] at hq
    obtain ⟨rfl, rfl, ho⟩ | ⟨rfl, rfl, ho⟩ | ⟨rfl, rfl, ho⟩ | ⟨rfl, rfl, ho⟩ | ⟨rfl, rfl, ho⟩ | ⟨rfl, rfl, ho⟩ |
      ⟨rfl, rfl, ho⟩ | ⟨rfl, rfl, ho⟩ := hq <;>
    simp [decode, decodeCommand, decodeOperation, decodeStimulus, decodeEvent, hz, ho, Instr.mnemonic]
  · obtain ⟨x, hx, hn⟩ := decodeControl_of_selects hq
    exact ⟨x, by simp [decode, decodeCommand, decodeOperation, hz, ho, hx], hn⟩
  · simp only [argRows, List.mem_cons, Prod.mk.injEq, List.not_mem_nil, or_false] at hq
    obtain ⟨rfl, rfl, ho, ha⟩ | ⟨rfl, rfl, ho, ha⟩ | ⟨rfl, rfl, ho, ha⟩ | ⟨rfl, rfl, ho, ha⟩ | ⟨rfl, rfl, ho, ha⟩ |
      ⟨rfl, rfl, ho, ha⟩ | ⟨rfl, rfl, ho, ha⟩ := hq <;>
    simp [decode, decodeCommand, decodeOperation, decodePower, decodeStimulus, decodeEvent, hz, ho, ha, Instr.mnemonic]

theorem decode_ok_idx {p : Port} {f : Frame} {x : Instr} (h : decode p f = .ok x) : x.idx = f.inst := by
  cases p with
  | command => exact (decodeCommand_ok h).1
  | stimulus => exact (decodeStimulus_ok h).1

/-! The other way round, each branch of the decoder tests what its row selects. -/

theorem selects_of_decodePower {f : Frame} {x : Instr} (ho : f.op = 0x03) (h : decodePower f = .ok x) :
    (x.mnemonic, .command, f.op, f.a0) ∈ argRows := by
  unfold decodePower at h
  repeat' split at h
  all_goals cases h
  all_goals
    rename_i ha
    simp [argRows, Instr.mnemonic, ho, ha]

theorem selects_of_decodeControl {f : Frame} {x : Instr} (h : decodeControl f = .ok x) :
    (x.mnemonic, f.code) ∈ codeRows := by
  unfold decodeControl at h
  repeat' split at h
  all_goals cases h
  all_goals
    rename_i hc
    simp [codeRows, Instr.mnemonic, hc]

theorem selects_of_decodeOperation {f : Frame} {x : Instr} (hz : f.zero = 0) (h : decodeOperation f = .ok x) :
    Selects x.mnemonic .command f := by
  refine ⟨hz, ?_⟩
  by_cases hpower : f.op = 0x03
  · exact .inr (.inr (selects_of_decodePower hpower (by simpa [decodeOperation, hpower] using h)))
  by_cases hcontrol : f.op = 0x04
  · exact .inr (.inl ⟨rfl, hcontrol, selects_of_decodeControl (by simpa [decodeOperation, hcontrol] using h)⟩)
  refine .inl ?_
  rw [decodeOperation, if_neg hpower, if_neg hcontrol] at h
  repeat' split at h
  all_goals cases h
  all_goals
    rename_i ho
    simp [opRows, Instr.mnemonic, ho]

/-- No branch tests an error event's kind, so it is given. -/
theorem selects_of_decodeEvent {f : Frame} {x : Instr} (hz : f.zero = 0) (h : decodeEvent f = .ok x)
    (hkind : ∀ i k, x = .dmaTxError i k ∨ x = .dmaRxError i k → k = 1) : Selects x.mnemonic .stimulus f := by
  refine ⟨hz, ?_⟩
  unfold decodeEvent at h
  split at h
  case isTrue ho =>
    cases h
    exact .inl (by simp [opRows, Instr.mnemonic, ho])
  split at h
  case isTrue ho =>
    refine .inr (.inr ?_)
    split at h
    case isTrue ha =>
      cases h
      simp [argRows, Instr.mnemonic, ho, ha]
    case isFalse =>
      cases h
      have hk : f.a0 = 1 := hkind _ _ (.inl rfl)
      simp [argRows, Instr.mnemonic, ho, hk]
  split at h
  case isTrue ho =>
    refine .inr (.inr ?_)
    split at h
    case isTrue ha =>
      cases h
      simp [argRows, Instr.mnemonic, ho, ha]
    case isFalse =>
      cases h
      have hk : f.a0 = 1 := hkind _ _ (.inr rfl)
      simp [argRows, Instr.mnemonic, ho, hk]
  case isFalse => cases h

theorem selects_of_decode {p : Port} {f : Frame} {x : Instr} (h : decode p f = .ok x)
    (hkind : ∀ i k, x = .dmaTxError i k ∨ x = .dmaRxError i k → k = 1) : Selects x.mnemonic p f := by
  cases p with
  | command =>
    replace h : decodeCommand f = .ok x := h
    unfold decodeCommand at h
    split at h
    · exact selects_of_decodeOperation ‹_› h
    · cases h
  | stimulus =>
    replace h : decodeStimulus f = .ok x := h
    unfold decodeStimulus at h
    split at h
    · exact selects_of_decodeEvent ‹_› h hkind
    · cases h

/-- Settles O6: a row accepts a frame exactly when the frame carries its selector, and the selectors are what the decoder
tests. -/
theorem decoderFollowsOpcodeTable : Obligations.DecoderFollowsOpcodeTable := by
  refine ⟨fun r hr f ha => ?_, fun p f x h hkind => exists_row_iff.2 (selects_of_decode h hkind)⟩
  obtain ⟨x, hx, hn⟩ := decode_of_selects (exists_row_iff.1 ⟨r, hr, rfl, rfl, ha⟩)
  exact ⟨x, hx, hn, decode_ok_idx hx⟩

end Sys2Proof

namespace Sys2Proof.Machine

/-! ## Frames and instructions that do not run (30_encoding.md section 5, 60_exceptions.md R268) -/

theorem command_of_wait {i j : Idx} {k : Cont} {s : State} {body : Spi → State} (h : s.ctx = .isrWait j k) :
    command i s body = .refused .notForeground := by
  rw [command, h]

theorem stimulus_of_wait {i j : Idx} {k : Cont} {s : State} {en : Spi → Bool} {body : Spi → State}
    (h : s.ctx = .isrWait j k) : stimulus i s en body = .refused .notForeground := by
  rw [stimulus, h]

theorem command_of_absent {i : Idx} {s : State} {body : Spi → State} (h : s.ctx = .foreground) (hi : i ∉ s.insts) :
    command i s body = .next (s.reply .errorUnsupported) := by
  rw [command, h, (s.spi?_eq_none_iff i).2 hi]

theorem stimulus_of_absent {i : Idx} {s : State} {en : Spi → Bool} {body : Spi → State} (h : s.ctx = .foreground)
    (hi : i ∉ s.insts) : stimulus i s en body = .refused .noSuchInstance := by
  rw [stimulus, h, (s.spi?_eq_none_iff i).2 hi]

/-- Every host operation is a `command` of its index. -/
theorem exec_eq_command {c : Instr} (s : State) (hp : c.port = .command) :
    ∃ body, exec c s = command c.idx s body := by
  cases c with
  | irq | dmaTxDone | dmaTxError | dmaRxDone | dmaRxError => exact nomatch hp
  | _ => exact ⟨_, rfl⟩

/-- Every stimulus is a `stimulus` of its index. -/
theorem exec_eq_stimulus {c : Instr} (s : State) (hp : c.port = .stimulus) :
    ∃ en body, exec c s = stimulus c.idx s en body := by
  cases c with
  | irq | dmaTxDone | dmaTxError | dmaRxDone | dmaRxError => exact ⟨_, _, rfl⟩
  | _ => exact nomatch hp

theorem exec_command_of_absent {c : Instr} {s : State} (h : s.ctx = .foreground) (hi : c.idx ∉ s.insts)
    (hp : c.port = .command) : exec c s = .next (s.reply .errorUnsupported) := by
  obtain ⟨body, he⟩ := exec_eq_command s hp
  exact he.trans (command_of_absent h hi)

/-- Settles O12: an instruction is a `command` or a `stimulus` of its index, and both test the context first,
membership of `Inst` second. -/
theorem operationsNeedForegroundAndInstance : Obligations.OperationsNeedForegroundAndInstance := by
  refine fun c s => ⟨fun i k hwait => ?_, exec_command_of_absent, fun h hi hp => ?_⟩
  · cases hp : c.port with
    | command =>
      obtain ⟨body, he⟩ := exec_eq_command s hp
      exact he.trans (command_of_wait hwait)
    | stimulus =>
      obtain ⟨en, body, he⟩ := exec_eq_stimulus s hp
      exact he.trans (stimulus_of_wait hwait)
  · obtain ⟨en, body, he⟩ := exec_eq_stimulus s hp
    exact he.trans (stimulus_of_absent h hi)

theorem step_command {s : State} {f : Frame} {rest : List Input} (h : s.ctx = .foreground)
    (hin : s.inputs = .command f :: rest) : step s = takeCommand f { s with inputs := rest } := by
  simp only [step, h, foregroundStep, hin]

theorem step_stimulus {s : State} {f : Frame} {rest : List Input} (h : s.ctx = .foreground)
    (hin : s.inputs = .stimulus f :: rest) : step s = takeStimulus f { s with inputs := rest } := by
  simp only [step, h, foregroundStep, hin]

theorem takeCommand_of_ok {f : Frame} {s : State} {c : Instr} (h : decode .command f = .ok c) :
    takeCommand f s = exec c s := by
  rw [takeCommand, h]

theorem takeStimulus_of_ok {f : Frame} {s : State} {c : Instr} (h : decode .stimulus f = .ok c) :
    takeStimulus f s = exec c s := by
  rw [takeStimulus, h]

theorem takeCommand_of_zeroField {f : Frame} {s : State} (h : decode .command f = .error .zeroField) :
    takeCommand f s = .next (s.reply .errorUnsupported) := by
  rw [takeCommand, h]

theorem takeCommand_of_reservedOp {f : Frame} {s : State} {op : BitVec 8} (h : decode .command f = .error (.reservedOp op)) :
    takeCommand f s = .next (s.reply .errorUnsupported) := by
  rw [takeCommand, h]

theorem takeCommand_of_powerState {f : Frame} {s : State} {i : Idx} {a : Word}
    (h : decode .command f = .error (.powerState i a)) : takeCommand f s = answerPowerState i s := by
  rw [takeCommand, h]

theorem takeCommand_of_controlCode {f : Frame} {s : State} {i : Idx} {a : BitVec 8}
    (h : decode .command f = .error (.controlCode i a)) : takeCommand f s = answerControlCode i s := by
  rw [takeCommand, h]

/-- Whatever else the frame holds, a command frame of an index outside `Inst` is malformed (R109). -/
theorem takeCommand_of_absent {f : Frame} {s : State} (h : s.ctx = .foreground) (hi : f.inst ∉ s.insts) :
    takeCommand f s = .next (s.reply .errorUnsupported) := by
  cases hd : decode .command f with
  | ok c =>
    obtain ⟨hidx, hport⟩ := decodeCommand_ok hd
    exact (takeCommand_of_ok hd).trans (exec_command_of_absent h (hidx ▸ hi) hport)
  | error r =>
    obtain rfl | rfl | rfl | rfl := decodeCommand_error hd
    · exact takeCommand_of_zeroField hd
    · exact takeCommand_of_reservedOp hd
    · exact (takeCommand_of_powerState hd).trans (command_of_absent h hi)
    · exact (takeCommand_of_controlCode hd).trans (command_of_absent h hi)

theorem decodeOperation_of_reserved {f : Frame} (h : f.op = 0 ∨ 9 < f.op.toNat) :
    decodeOperation f = .error (.reservedOp f.op) := by
  have hne : ∀ op : BitVec 8, 1 ≤ op.toNat → op.toNat ≤ 9 → f.op ≠ op := by
    rintro _ hlo hhi rfl
    obtain h | h := h
    · simp [h] at hlo
    · omega
  simp [decodeOperation, hne]

/-- Settles O9: a non-zero ZERO field and a reserved OP are the decoder's first two rejections, and of an index
outside `Inst` every frame answers the same. -/
theorem malformedCommandFrameUnsupported : Obligations.MalformedCommandFrameUnsupported := by
  intro s f rest hctx hin hbad
  rw [step_command hctx hin]
  by_cases hz : f.zero = 0
  · obtain h | h | hop := hbad
    · exact absurd hz h
    · exact takeCommand_of_absent hctx h
    · exact takeCommand_of_reservedOp ((if_pos hz).trans (decodeOperation_of_reserved hop))
  · exact takeCommand_of_zeroField (if_neg hz)

theorem Ready.controlCall_eq {s : State} {i : Idx} {x : Spi} (h : Ready s i x) (body : Spi → State) :
    controlCall i s body = .next (if x.run.powered = false then s.reply .error
      else if x.run.busy then s.reply .errorBusy else body x) := by
  rw [controlCall, h.command_eq]
  cases x.run.powered <;> rfl

/-- Settles O10: the decoder names what it rejected, and `takeCommand` answers that after the tests the operation has. -/
theorem unlistedFramesUnsupported : Obligations.UnlistedFramesUnsupported := by
  intro s f rest x ⟨hctx, hspi⟩ hin hz
  have hready : Ready { s with inputs := rest } f.inst x := ⟨hctx, hspi⟩
  have hdecode : decode .command f = decodeOperation f := if_pos hz
  refine ⟨fun hop h0 h1 h2 => ?_, fun hop hcode => ?_⟩
  · have hpower : decode .command f = .error (.powerState f.inst f.a0) := by
      have hop' : f.op = 3 := hop
      rw [hdecode]
      simp_all [decodeOperation, decodePower]
    rw [step_command hctx hin, takeCommand_of_powerState hpower]
    exact hready.command_eq _
  · have hcontrol : decode .command f = .error (.controlCode f.inst f.code) := by
      have hop' : f.op = 4 := hop
      have hcode' : f.code ∉ ([0x00, 0x01, 0x02, 0x10, 0x11, 0x12, 0x13, 0x14] : List (BitVec 8)) := hcode
      rw [hdecode]
      simp_all [decodeOperation, decodeControl]
    rw [step_command hctx hin, takeCommand_of_controlCode hcontrol]
    refine (hready.controlCall_eq _).trans ?_
    change _ = Host.Outcome.next { s with
      inputs := rest
      ret := if x.run.powered = false then Status.error.word else if x.run.busy then Status.errorBusy.word
        else Status.errorUnsupported.word }
    cases x.run.powered <;> cases x.run.busy <;> rfl

/-- Settles O11: `waitStep` looks for an environment move when the flag is set or one is next; phase B is what it does
otherwise. -/
theorem spinWaitTakesOnlyEnvironmentMoves : Obligations.SpinWaitTakesOnlyEnvironmentMoves := by
  intro s i k x hctx hspi
  have hstep : step s = waitStep i k s := by rw [step, hctx]
  refine ⟨fun hbusy => ⟨fun hnone => ?_, fun pre e post hpre hin => ?_⟩, fun e rest hin => ?_⟩
  · simp [hstep, waitStep, hspi, hbusy, firstEnv_eq_none s.inputs hnone]
  · simp [hstep, waitStep, hspi, hbusy, hin, firstEnv_append pre e post hpre]
  · simp [hstep, waitStep, hspi, hin, envIsNext, firstEnv]

/-- Settles O8: the port of the frame says which of the two `take` functions runs, and both run what decodes. -/
theorem stepRunsDecodedInstruction : Obligations.StepRunsDecodedInstruction := by
  intro s p f rest c hctx hin hdecode
  cases p with
  | command => rw [step_command hctx hin, takeCommand_of_ok hdecode]
  | stimulus => rw [step_stimulus hctx hin, takeStimulus_of_ok hdecode]

end Sys2Proof.Machine

namespace Sys2Proof.Machine

/-! ## Laws of every instruction (60_exceptions.md section 5): each reads off `Writes` and the shared state's frame -/

/-- Settles O50: only a drain writes memory, and `memWrite` the bytes of its unit only. -/
theorem instructionMemoryFrame : Obligations.InstructionMemoryFrame := by
  intro c s t a h hne
  obtain hm | ⟨i, x, rfl, hx, hm⟩ := exec_mem h
  · exact absurd (by rw [State.byte, hm, State.byte]) hne
  · by_contra hout
    refine hne ?_
    rw [State.byte, hm, State.byte]
    exact readCell_memWrite_other _ _ _ _ _ fun k hk he => hout ⟨i, x, k, rfl, hx, hk, he⟩

/-- Settles O51: an instruction writes its own `Spi` at most. -/
theorem otherInstancesUntouched : Obligations.OtherInstancesUntouched := by
  intro c s t h
  obtain ⟨hparams, hslave, hinputs⟩ := exec_launch h
  refine ⟨fun j hj => ?_, exec_insts h, hinputs, hparams, hslave⟩
  obtain ht | ⟨x, y, -, -, ht⟩ := exec_writesOwn h
  · rw [State.spi?, ht, State.spi?]
  · rw [State.spi?, ht, findSpi_setSpi_other _ _ _ _ hj, State.spi?]

theorem Hw.maskOff_imr_and (h : Hw) (b : BitVec 5) : (h.maskOff b).imr &&& h.imr = (h.maskOff b).imr := by
  rw [Hw.maskOff, BitVec.and_comm, ← BitVec.and_assoc, BitVec.and_self]

/-- Settles O52: the shared state by `exec_stimulus_eq`, the `Spi` by the nine forms a stimulus writes. -/
theorem interruptContextWrites : Obligations.InterruptContextWrites := by
  intro c s t j x y hport h hx hy
  have hshared : t.bpu = s.bpu ∧ t.dmaInit = s.dmaInit ∧ t.dmaEngineEn = s.dmaEngineEn ∧
      t.xlog = s.xlog ∧ t.ret = s.ret := by
    rw [(exec_stimulus_eq h hport).1]
    exact ⟨rfl, rfl, rfl, rfl, rfl⟩
  obtain rfl | ⟨rfl, hw⟩ := exec_writes h hx hy
  · exact ⟨rfl, id, id, rfl, rfl, BitVec.and_self, rfl, rfl, id, id, rfl, hshared⟩
  · cases hw with
    | loseData => exact ⟨rfl, id, fun _ => rfl, rfl, rfl, BitVec.and_self, rfl, rfl, id, id, rfl, hshared⟩
    | receiveComplete => exact ⟨rfl, nofun, id, rfl, rfl, Hw.maskOff_imr_and _ _, rfl, rfl, id, id, rfl, hshared⟩
    | filler | drained | sent => exact ⟨rfl, id, id, rfl, rfl, BitVec.and_self, rfl, rfl, id, id, rfl, hshared⟩
    | dmaTxDone => exact ⟨rfl, nofun, id, rfl, rfl, BitVec.and_self, rfl, rfl, nofun, id, rfl, hshared⟩
    | dmaRxDone => exact ⟨rfl, nofun, id, rfl, rfl, BitVec.and_self, rfl, rfl, id, nofun, rfl, hshared⟩
    | dmaTxError => exact ⟨rfl, id, id, rfl, rfl, BitVec.and_self, rfl, rfl, nofun, id, rfl, hshared⟩
    | dmaRxError => exact ⟨rfl, id, id, rfl, rfl, BitVec.and_self, rfl, rfl, id, nofun, rfl, hshared⟩
    | accepted hc => cases hc <;> exact nomatch hport
    | _ => exact nomatch hport

/-- Settles O53: the shared state by `exec_command_eq`; of the `Spi` only an armed transfer writes the log, once and
for RECEIVE. -/
theorem hostOperationFrame : Obligations.HostOperationFrame := by
  intro c s t j x y hport h hx hy
  have hshared : t.mem = s.mem ∧ t.evlog = s.evlog ∧ t.ctx = s.ctx := by
    rw [exec_command_eq h hport]
    exact ⟨rfl, rfl, rfl⟩
  obtain ⟨hmem, hevlog, hctx⟩ := hshared
  obtain rfl | ⟨rfl, hw⟩ := exec_writes h hx hy
  · exact ⟨hmem, hevlog, hctx, rfl, rfl, rfl, .inl rfl⟩
  · cases hw with
    | accepted hc _ ha =>
      cases ha with
      | unmasked => exact ⟨hmem, hevlog, hctx, rfl, rfl, rfl, .inl rfl⟩
      | armed _ _ _ hlog =>
        refine ⟨hmem, hevlog, hctx, rfl, rfl, rfl, hlog.imp_right fun ⟨hlog, hdir⟩ => ⟨hlog, ?_⟩⟩
        subst hdir
        cases hc with
        | receive => exact ⟨_, _, rfl⟩
    | loseData | receiveComplete | filler | drained | sent | dmaTxDone | dmaRxDone | dmaTxError | dmaRxError =>
      exact nomatch hport
    | _ => exact ⟨hmem, hevlog, hctx, rfl, rfl, rfl, .inl rfl⟩

/-- Settles O54: an effect other than an answer answers OK, but for the accepted transfer call whose configure call failed. -/
theorem failureChangesNothing : Obligations.FailureChangesNothing := by
  intro c s t hport h hret
  have accepted : ∀ {i tb rb n dir x}, c.idx = i → s.spi? i = some x → t = accept i tb rb n dir x s →
      t.ret = 0xFFFFFFFF ∧ ∃ x, s.spi? c.idx = some x ∧ (x.desc.dmaTxBound = true ∨ x.desc.dmaRxBound = true) := by
    rintro i tb rb n dir x rfl hx ht
    obtain ⟨calls, y, e, r, -, -, rfl | ⟨rfl, hbound⟩, h'⟩ := accept_eq c.idx tb rb n dir x s
    · exact absurd (by rw [ht, h']; rfl) hret
    · refine ⟨by rw [ht, h']; rfl, x, hx, ?_⟩
      simpa [dmaBound] using hbound
  cases (exec_effect h).2 with
  | answer v => exact .inl rfl
  | send hx =>
    obtain ⟨hr, hbound⟩ := accepted rfl hx rfl
    exact .inr ⟨hr, hbound, _, _, 0, _, .inl rfl⟩
  | receive hx =>
    obtain ⟨hr, hbound⟩ := accepted rfl hx rfl
    exact .inr ⟨hr, hbound, _, _, 0, _, .inr (.inl rfl)⟩
  | transfer hx =>
    obtain ⟨hr, hbound⟩ := accepted rfl hx rfl
    exact .inr ⟨hr, hbound, _, _, _, _, .inr (.inr rfl)⟩
  | irq | dmaTxDone | dmaRxDone | dmaTxError | dmaRxError => exact nomatch hport
  | initializeOp | uninitializeOp | powerOff | powerFull | modeInactive | modeMaster | modeSlave | setBusSpeed
  | setDefault | controlSs | abort => exact absurd rfl hret

/-- Settles O55: a host operation leaves the event log, and a stimulus delivers one event or none. -/
theorem atMostOneEventPerInstruction : Obligations.AtMostOneEventPerInstruction := by
  intro c s t h
  cases hp : c.port with
  | command => exact .inl (by rw [exec_command_eq h hp])
  | stimulus => exact (exec_stimulus_eq h hp).2.imp_right fun he => ⟨rfl, he⟩

/-- Settles O56: busy by an accepted transfer, data_lost by the handler's overflow branch, mode_fault by nothing. -/
theorem whoSetsStatusFlags : Obligations.WhoSetsStatusFlags := by
  intro c s t j x y h hx hy
  have same {b : Bool} {P : Prop} (h0 : b = false) (h1 : b = true) : P := nomatch h0.symm.trans h1
  obtain rfl | ⟨rfl, hw⟩ := exec_writes h hx hy
  · exact ⟨same, same, id⟩
  · cases hw with
    | accepted hc hconf ha =>
      have hrun : y.run = x.run.acceptTriple := by cases ha <;> rfl
      rw [hrun]
      refine ⟨fun _ _ => ⟨hconf, ?_⟩, nofun, nofun⟩
      cases hc with
      | send ha' hn => exact ⟨_, 0, _, hn, ha', .inl rfl⟩
      | receive ha' hn => exact ⟨_, 0, _, hn, ha', .inr (.inl rfl)⟩
      | transfer ha' hb hn => exact ⟨_, _, _, hn, ha', .inr (.inr ⟨rfl, hb⟩)⟩
    | loseData => exact ⟨same, fun _ _ => rfl, id⟩
    | uninitializeOp | powerOff | powerFull => exact ⟨nofun, nofun, nofun⟩
    | abort | receiveComplete | dmaTxDone | dmaRxDone => exact ⟨nofun, same, id⟩
    | _ => exact ⟨same, same, id⟩

/-- Settles O57: an accepted transfer on the interrupt path unmasks its direction's sources, the end of a receive masks
RXF, a mode select masks all. -/
theorem whoWritesInterruptMask : Obligations.WhoWritesInterruptMask := by
  intro c s t j x y h hx hy
  obtain rfl | ⟨rfl, hw⟩ := exec_writes h hx hy
  · exact .inl rfl
  · cases hw with
    | accepted hc _ ha =>
      cases ha with
      | armed => exact .inl rfl
      | unmasked hb =>
        have hbound : x.desc.dmaTxBound = false ∧ x.desc.dmaRxBound = false := by simpa [dmaBound] using hb
        refine .inr (.inl ⟨hbound.1, hbound.2, ?_⟩)
        cases hc with
        | send => exact ⟨_, 0, _, .inl ⟨rfl, rfl⟩⟩
        | receive => exact ⟨_, 0, _, .inr (.inl ⟨rfl, rfl⟩)⟩
        | transfer => exact ⟨_, _, _, .inr (.inr ⟨rfl, BitVec.or_allOnes⟩)⟩
    | receiveComplete => exact .inr (.inr (.inl ⟨rfl, rfl⟩))
    | modeMaster => exact .inr (.inr (.inr ⟨rfl, _, _, _, _, 0, _, .inl rfl⟩))
    | modeSlave => exact .inr (.inr (.inr ⟨rfl, _, _, _, 0, _, 0, .inr rfl⟩))
    | _ => exact .inl rfl

/-- Settles O58: one case for each of the seven forms of `Writes` that touch the lifecycle word. -/
theorem whoWritesLifecycleBits : Obligations.WhoWritesLifecycleBits := by
  intro c s t j x y h hx hy
  obtain rfl | ⟨rfl, hw⟩ := exec_writes h hx hy
  · exact .inl rfl
  · cases hw with
    | initializeOp => exact .inr (.inl ⟨rfl, _, rfl⟩)
    | powerFull h0 => exact .inr (.inr (.inl ⟨rfl, h0, rfl⟩))
    | powerOff => exact .inr (.inr (.inr (.inl ⟨rfl, rfl⟩)))
    | modeMaster hp => exact .inr (.inr (.inr (.inr (.inl ⟨rfl, hp, _, _, _, _, 0, _, .inl rfl⟩))))
    | modeSlave hp => exact .inr (.inr (.inr (.inr (.inl ⟨rfl, hp, _, _, _, 0, _, 0, .inr rfl⟩))))
    | modeInactive => exact .inr (.inr (.inr (.inr (.inr (.inl ⟨rfl, rfl⟩)))))
    | uninitializeOp => exact .inr (.inr (.inr (.inr (.inr (.inr ⟨rfl, rfl⟩)))))
    | accepted _ _ ha => cases ha <;> exact .inl rfl
    | _ => exact .inl rfl

/-- Settles O59: the shared state's law. -/
theorem whoWritesUnitSize : Obligations.WhoWritesUnitSize := by
  intro c s t h hne
  obtain ⟨-, -, hbpu⟩ := exec_shared h
  exact hbpu.resolve_left hne

@[simp] theorem Hw.setFormat_hwEn (h : Hw) (ff : BitVec 4) : (h.setFormat ff).hwEn = h.hwEn := by
  unfold Hw.setFormat
  split_ifs <;> rfl

@[simp] theorem Hw.setFormat_irqEn (h : Hw) (ff : BitVec 4) : (h.setFormat ff).irqEn = h.irqEn := by
  unfold Hw.setFormat
  split_ifs <;> rfl

/-- Settles O60: the forms of `Writes` that touch the path or the gate are the accepted transfer and the two power
operations. -/
theorem whoWritesPathAndGate : Obligations.WhoWritesPathAndGate := by
  intro c s t j x y h hx hy
  have same {b : Bool} {v w : Bool} {P : Prop} (hvw : v ≠ w) (h0 : b = v) (h1 : b = w) : P := absurd (h0.symm.trans h1) hvw
  have unwritten {P Q R S : Prop} (hpath : y.hw.hwEn = x.hw.hwEn) (hgate : y.hw.irqEn = x.hw.irqEn) :
      (x.hw.hwEn = false → y.hw.hwEn = true → P) ∧ (x.hw.hwEn = true → y.hw.hwEn = false → Q) ∧
      (x.hw.irqEn = false → y.hw.irqEn = true → R) ∧ (x.hw.irqEn = true → y.hw.irqEn = false → S) := by
    rw [hpath, hgate]
    exact ⟨same (by decide), same (by decide), same (by decide), same (by decide)⟩
  obtain rfl | ⟨rfl, hw⟩ := exec_writes h hx hy
  · exact unwritten rfl rfl
  · cases hw with
    | accepted hc _ ha =>
      have hhw : y.hw.hwEn = true ∧ y.hw.irqEn = x.hw.irqEn := by cases ha <;> exact ⟨rfl, rfl⟩
      rw [hhw.1, hhw.2]
      refine ⟨fun _ _ => ?_, nofun, same (by decide), same (by decide)⟩
      cases hc with
      | send => exact ⟨_, 0, _, .inl rfl⟩
      | receive => exact ⟨_, 0, _, .inr (.inl rfl)⟩
      | transfer => exact ⟨_, _, _, .inr (.inr rfl)⟩
    | powerOff => exact ⟨nofun, fun _ _ => rfl, nofun, fun _ _ => rfl⟩
    | powerFull => exact ⟨same (by decide), same (by decide), fun _ _ => rfl, nofun⟩
    | modeMaster | modeSlave => exact unwritten (Hw.setFormat_hwEn _ _) (Hw.setFormat_irqEn _ _)
    | _ => exact unwritten rfl rfl

end Sys2Proof.Machine

namespace Sys2Proof.Machine

/-! ## Laws of every step (10_state.md R9, R20, R50, R51) -/

/-- What every agent leaves of a `Spi`: its descriptor, and the data-register log but for new entries. -/
def Spi.Grows (x y : Spi) : Prop := y.desc = x.desc ∧ x.drlog <+: y.drlog

theorem Spi.Grows.refl (x : Spi) : x.Grows x := ⟨rfl, List.prefix_rfl⟩

theorem Writes.grows {c : Instr} {s t : State} {x y : Spi} (h : Writes c s t x y) : x.Grows y := by
  cases h with
  | accepted _ _ ha =>
    cases ha with
    | unmasked => exact ⟨rfl, List.prefix_rfl⟩
    | armed _ _ _ hlog =>
      obtain rfl | ⟨rfl, -⟩ := hlog
      · exact ⟨rfl, List.prefix_rfl⟩
      · exact ⟨rfl, List.prefix_append _ _⟩
  | filler | sent => exact ⟨rfl, List.prefix_append _ _⟩
  | _ => exact ⟨rfl, List.prefix_rfl⟩

theorem EnvWrites.grows {e : Bool} {x y : Spi} (h : EnvWrites e x y) : x.Grows y := by
  obtain ⟨-, -, hlog⟩ := h
  exact ⟨rfl, hlog⟩

theorem PhaseBWrites.grows {x y : Spi} (h : PhaseBWrites x y) : x.Grows y := by
  cases h <;> exact ⟨rfl, List.prefix_rfl⟩

/-- What every agent leaves of the whole state. -/
structure State.Grows (s t : State) : Prop where
  params : t.params = s.params
  slaveNo : t.slaveNo = s.slaveNo
  insts : t.insts = s.insts
  xlog : s.xlog <+: t.xlog
  evlog : s.evlog <+: t.evlog
  spis : ∀ i x y, s.spi? i = some x → t.spi? i = some y → x.Grows y

namespace State.Grows
variable {s t : State}

theorem exec {c : Instr} (h : exec c s = .next t) : s.Grows t := by
  obtain ⟨hparams, hslave, -⟩ := exec_launch h
  obtain ⟨hxlog, -, -⟩ := exec_shared h
  refine ⟨hparams, hslave, exec_insts h, hxlog, ?_, fun i x y hx hy => ?_⟩
  · cases hp : c.port with
    | command => rw [exec_command_eq h hp]
    | stimulus =>
      obtain hev | ⟨e, hev, -⟩ := (exec_stimulus_eq h hp).2
      · rw [hev]
      · rw [hev]
        exact List.prefix_append _ _
  · obtain rfl | ⟨-, hw⟩ := exec_writes h hx hy
    · exact .refl y
    · exact hw.grows

/-- A write of one `Spi` that grows, with new events and any memory and context. -/
theorem of_put {i : Idx} {x z : Spi} (hx : s.spi? i = some x) (hz : x.Grows z) (hspis : t.spis = setSpi s.spis i z)
    (hparams : t.params = s.params) (hslave : t.slaveNo = s.slaveNo) (hxlog : t.xlog = s.xlog)
    (hevlog : s.evlog <+: t.evlog) : s.Grows t := by
  refine ⟨hparams, hslave, by rw [State.insts, hspis, map_fst_setSpi, State.insts], by rw [hxlog], hevlog,
    fun j v w hv hw => ?_⟩
  obtain ⟨rfl, rfl, rfl⟩ | ⟨-, rfl⟩ := spi?_after_write hspis hx hv hw
  · exact hz
  · exact .refl w

/-- A step that writes no `Spi`. -/
theorem of_spis (hspis : t.spis = s.spis) (hparams : t.params = s.params) (hslave : t.slaveNo = s.slaveNo)
    (hxlog : t.xlog = s.xlog) (hevlog : s.evlog <+: t.evlog) : s.Grows t := by
  refine ⟨hparams, hslave, by rw [State.insts, hspis, State.insts], by rw [hxlog], hevlog, fun i x y hx hy => ?_⟩
  rw [spi?_of_same hspis hx hy]
  exact .refl x

theorem step (h : step s = .next t) : s.Grows t := by
  obtain ⟨rest, rfl⟩ | ⟨rest, c, hc⟩ | ⟨rest, c, -, rfl⟩ | ⟨rest, e, he⟩ |
    ⟨i, k, x, rest, -, hx, -, rfl⟩ := step_cases h
  · exact of_spis rfl rfl rfl rfl List.prefix_rfl
  · exact { exec hc with }
  · exact of_spis rfl rfl rfl rfl List.prefix_rfl
  · obtain ⟨m, -, rfl | ⟨i, x, y, hx, hw, rfl⟩⟩ := applyEnv_eq he
    · exact of_spis rfl rfl rfl rfl List.prefix_rfl
    · exact of_put hx hw.grows rfl rfl rfl rfl List.prefix_rfl
  · obtain ⟨l, hl, h | ⟨y, hw, h⟩⟩ := phaseB_eq i k x { s with inputs := rest }
    · rw [h]
      exact of_spis rfl rfl rfl rfl hl
    · rw [h]
      exact of_put hx hw.grows rfl rfl rfl rfl hl

end State.Grows

/-- Settles O13: what every agent leaves. -/
theorem stepKeepsLaunchParameters : Obligations.StepKeepsLaunchParameters := by
  intro s t h
  have hg := State.Grows.step h
  exact ⟨hg.params, hg.slaveNo, hg.insts, fun i x y hx hy => (hg.spis i x y hx hy).1⟩

/-- Settles O14: what every agent leaves. -/
theorem stepOnlyAppendsToLogs : Obligations.StepOnlyAppendsToLogs := by
  intro s t h
  have hg := State.Grows.step h
  exact ⟨hg.xlog, hg.evlog, fun i x y hx hy => (hg.spis i x y hx hy).2⟩

/-! ## After reset (10_state.md R58), and numbers of the spec (30_encoding.md R104, R108) -/

theorem reset_spi?_cases {i : Idx} {x : Spi} (h : State.reset.spi? i = some x) : ∃ d, x = .reset d := by
  have hmem := mem_of_findSpi _ _ _ h
  simp only [State.reset, List.mem_cons, Prod.mk.injEq, List.not_mem_nil, or_false] at hmem
  obtain ⟨-, rfl⟩ | ⟨-, rfl⟩ | ⟨-, rfl⟩ := hmem <;> exact ⟨_, rfl⟩

/-- Settles O1: each member of the reset state is `Spi.reset` of its descriptor. -/
theorem resetStateAsTabulated : Obligations.ResetStateAsTabulated := by
  refine ⟨fun i x hx => ?_, rfl, rfl, rfl, rfl, rfl, rfl⟩
  obtain ⟨d, rfl⟩ := reset_spi?_cases hx
  exact ⟨rfl, rfl, rfl, rfl, rfl, rfl, rfl, rfl⟩

/-- Settles O2: three members, each after reset, by evaluation. -/
theorem resetMeetsInvariant : Obligations.ResetMeetsInvariant := by
  unfold Obligations.ResetMeetsInvariant
  decide

/-- Settles O4: the numbers are the model's literals. -/
theorem statusAndEventNumbers : Obligations.StatusAndEventNumbers :=
  ⟨fun c => by cases c <;> decide, rfl, rfl⟩

/-- Settles O7: eight fixed words. -/
theorem sampleWordsDecode : Obligations.SampleWordsDecode := by
  unfold Obligations.SampleWordsDecode
  decide

end Sys2Proof.Machine

namespace Sys2Proof.Machine

/-! ## Units of host memory, byte by byte (20_memory.md R63, R69) -/

theorem add_ofNat_succ (a : Word) (k : Nat) : a + BitVec.ofNat 32 (k + 1) = a + 1 + BitVec.ofNat 32 k := by
  rw [Nat.add_comm, BitVec.ofNat_add, BitVec.add_assoc]
  rfl

/-- A unit of at most 4 bytes does not wrap onto its first byte. -/
theorem ne_add_one_add_ofNat (a : Word) {k : Nat} (hk : k < 4) : a ≠ a + 1 + BitVec.ofNat 32 k := by
  rw [← add_ofNat_succ]
  intro h
  have h' := congrArg BitVec.toNat h
  simp only [BitVec.toNat_add, BitVec.toNat_ofNat] at h'
  omega

theorem extractLsb'_ushiftRight_eight (v : Word) (k : Nat) :
    (v >>> 8).extractLsb' (8 * k) 8 = v.extractLsb' (8 * (k + 1)) 8 := by
  refine BitVec.eq_of_getLsbD_eq fun j hj => ?_
  simp [hj, Nat.mul_add, Nat.add_assoc, Nat.add_left_comm]

/-- Storing the rest of a unit: byte `k` is the value's, unless it has been stored before. -/
theorem readCell_memStore (m : List Host.Cell) (bytes : List (Nat × Byte)) (a : Word) (n i : Nat) (v : Word)
    (hm : Memory.wf m = true) (hn : n ≤ 4) (k : Nat) (hk : k < n) :
    readCell (memStore m bytes a n i v) (a + BitVec.ofNat 32 k).toNat =
      if bytes.lookup (i + k) = none then v.extractLsb' (8 * k) 8 else readCell m (a + BitVec.ofNat 32 k).toNat := by
  induction n generalizing m a i v k with
  | zero => exact absurd hk (Nat.not_lt_zero k)
  | succ n ih =>
    have hwrite : Memory.wf (if (bytes.lookup i).isSome then m else writeCell m a.toNat (v.setWidth 8)) = true := by
      split
      · exact hm
      · exact wf_writeCell m a _ hm
    rw [memStore]
    cases k with
    | zero =>
      rw [show a + BitVec.ofNat 32 0 = a from BitVec.add_zero a,
        readCell_memStore_other _ _ _ _ _ _ _ fun k hk => ne_add_one_add_ofNat a (by omega)]
      cases hb : bytes.lookup i with
      | none =>
        rw [Option.isSome_none, if_neg Bool.false_ne_true, readCell_writeCell _ _ _ _ hm, if_pos rfl, if_pos rfl]
        exact BitVec.setWidth_eq_extractLsb' (by decide)
      | some b => rw [Option.isSome_some, if_pos rfl, if_neg (by simp)]
    | succ k =>
      have hother : readCell (if (bytes.lookup i).isSome then m else writeCell m a.toNat (v.setWidth 8))
          (a + BitVec.ofNat 32 (k + 1)).toNat = readCell m (a + BitVec.ofNat 32 (k + 1)).toNat := by
        split
        · rfl
        · refine readCell_writeCell_other _ _ _ _ fun h => ne_add_one_add_ofNat a (k := k) (by omega) ?_
          rw [← add_ofNat_succ, BitVec.eq_of_toNat_eq h]
      rw [add_ofNat_succ, ih _ _ _ _ hwrite (by omega) k (by omega), ← add_ofNat_succ, hother,
        extractLsb'_ushiftRight_eight, Nat.add_right_comm, Nat.add_assoc]

/-- One byte in front of a unit: its low 8 bits, then the rest. -/
theorem getLsbD_byte_or_shiftLeft (b : Byte) (w : Word) (j : Nat) :
    (b.setWidth 32 ||| w <<< 8).getLsbD j = if j < 8 then b.getLsbD j else decide (j < 32) && w.getLsbD (j - 8) := by
  rw [BitVec.getLsbD_or, BitVec.getLsbD_setWidth, BitVec.getLsbD_shiftLeft]
  split
  · rename_i hj
    simp [hj, show j < 32 by omega]
  · rename_i hj
    simp [hj, BitVec.getLsbD_of_ge b j (by omega)]

/-- Fetching a unit: byte `k` is the one read before, or the one in memory. -/
theorem extractLsb'_memFetch (m : List Host.Cell) (bytes : List (Nat × Byte)) (a : Word) (n i : Nat) (hn : n ≤ 4) (k : Nat)
    (hk : k < n) : (memFetch m bytes a n i).extractLsb' (8 * k) 8 =
      (bytes.lookup (i + k)).getD (readCell m (a + BitVec.ofNat 32 k).toNat) := by
  induction n generalizing a i k with
  | zero => exact absurd hk (Nat.not_lt_zero k)
  | succ n ih =>
    rw [memFetch]
    cases k with
    | zero =>
      rw [show a + BitVec.ofNat 32 0 = a from BitVec.add_zero a]
      refine BitVec.eq_of_getLsbD_eq fun j hj => ?_
      rw [BitVec.getLsbD_extractLsb', getLsbD_byte_or_shiftLeft]
      simp [hj]
    | succ k =>
      rw [add_ofNat_succ, ← Nat.add_assoc, Nat.add_right_comm, ← ih (a + 1) (i + 1) (by omega) k (by omega)]
      refine BitVec.eq_of_getLsbD_eq fun j hj => ?_
      have hge : ¬ 8 * (k + 1) + j < 8 := by omega
      have hlt : 8 * (k + 1) + j < 32 := by omega
      have hsub : 8 * (k + 1) + j - 8 = 8 * k + j := by omega
      rw [BitVec.getLsbD_extractLsb', getLsbD_byte_or_shiftLeft, if_neg hge, hsub]
      simp [hj, hlt]

theorem getLsbD_memFetch_of_ge (m : List Host.Cell) (bytes : List (Nat × Byte)) (a : Word) (n i j : Nat)
    (hj : 8 * n ≤ j) : (memFetch m bytes a n i).getLsbD j = false := by
  induction n generalizing a i j with
  | zero => exact BitVec.getLsbD_zero
  | succ n ih =>
    rw [memFetch, getLsbD_byte_or_shiftLeft, if_neg (by omega), ih _ _ _ (by omega), Bool.and_false]

/-- The low `n` bytes of a word, as a mask. -/
theorem getLsbD_and_lowBytes (v : Word) (n j : Nat) :
    (v &&& BitVec.ofNat 32 (2 ^ (8 * n) - 1)).getLsbD j = (v.getLsbD j && decide (j < 8 * n)) := by
  rw [BitVec.getLsbD_and, BitVec.getLsbD_ofNat, Nat.testBit_two_pow_sub_one]
  cases hv : v.getLsbD j with
  | false => rfl
  | true => simp [BitVec.lt_of_getLsbD hv]

/-- A word is read from its low `n` bytes when it has no other bits. -/
theorem eq_and_lowBytes {w v : Word} {n : Nat} (hbytes : ∀ k < n, w.extractLsb' (8 * k) 8 = v.extractLsb' (8 * k) 8)
    (hhigh : ∀ j, 8 * n ≤ j → w.getLsbD j = false) : w = v &&& BitVec.ofNat 32 (2 ^ (8 * n) - 1) := by
  refine BitVec.eq_of_getLsbD_eq fun j _ => ?_
  rw [getLsbD_and_lowBytes v n]
  by_cases hj : j < 8 * n
  · have hbit := congrArg (BitVec.getLsbD · (j % 8)) (hbytes (j / 8) (by omega))
    simp only [BitVec.getLsbD_extractLsb', Nat.div_add_mod, Nat.mod_lt j (by decide : 0 < 8), decide_true,
      Bool.true_and] at hbit
    simp [hbit, hj]
  · simp [hhigh j (by omega), hj]

/-- Settles O48: a unit is `memStore` and `memFetch` with nothing moved before, so the bytes of both follow from the
beats'. -/
theorem memWriteIsLowByteFirst : Obligations.MemWriteIsLowByteFirst := by
  intro m a v n bytes hm hn
  have hwrite : ∀ k < n, readCell (memWrite m a n v) (a + BitVec.ofNat 32 k).toNat = v.extractLsb' (8 * k) 8 := by
    intro k hk
    rw [← memStore_nil m a n 0 v, readCell_memStore m [] a n 0 v hm hn k hk]
    rfl
  refine ⟨hwrite, fun b => readCell_memWrite_other m a n v b, wf_memWrite m a n v hm, ?_, fun k hk => ?_, fun k hk => ?_,
    fun b => readCell_memStore_other m bytes a n 0 v b, wf_memStore m bytes a n 0 v hm⟩
  · rw [← memFetch_nil _ a n 0]
    refine eq_and_lowBytes (fun k hk => ?_) fun j hj => getLsbD_memFetch_of_ge _ _ _ _ _ _ hj
    rw [extractLsb'_memFetch _ _ _ _ _ hn k hk, ← hwrite k hk]
    rfl
  · rw [extractLsb'_memFetch m bytes a n 0 hn k hk, Nat.zero_add]
  · rw [readCell_memStore m bytes a n 0 v hm hn k hk, Nat.zero_add]

end Sys2Proof.Machine

namespace Sys2Proof.Machine

/-! ## INITIALIZE and UNINITIALIZE taking effect (40_lifecycle.md R121, R123) -/

theorem pinSetOf_eq (t : Tag) : pinSetOf t = if t = .ulpMaster then .reducedSet else .fullSet := by
  cases t <;> rfl

theorem dmaBound_iff {d : Desc} : dmaBound d = true ↔ d.dmaTxBound = true ∨ d.dmaRxBound = true := by
  simp [dmaBound]

theorem initCalls_eq (i : Idx) (d : Desc) : initCalls i d =
    .pinConfig i (if d.tag = .ulpMaster then .reducedSet else .fullSet) ::
      (if d.dmaTxBound = true ∨ d.dmaRxBound = true then [.dmaInit] else []) := by
  simp only [initCalls, pinSetOf_eq, dmaBound_iff]

theorem execInitialize_of_not_initialized {s : State} {i : Idx} {x : Spi} (h : Ready s i x) (cb : Word)
    (hinit : x.run.initialized = false) : execInitialize i cb s = .next
      { ((s.xcalls (initCalls i x.desc)).put i { x.clearXfer with
          hw := { x.hw with pinsCfg := true }, run := { x.run.setInitialized with cb := cb } }).reply .ok with
        dmaInit := s.dmaInit || dmaBound x.desc } := by
  rw [execInitialize, h.command_eq, if_neg (by simp [hinit])]
  rfl

/-- Settles O16: past the INITIALIZED test the operation commits; the calls and `dmaInit` follow the descriptor. -/
theorem initializeTakesEffect : Obligations.InitializeTakesEffect := by
  intro s i x cb hready hinit
  rw [← initCalls_eq, Bool.or_assoc]
  exact execInitialize_of_not_initialized hready cb hinit

/-- Settles O17: UNINITIALIZE has no test, and `Runtime.zeroed` is all zero. -/
theorem uninitializeZeroesRuntimeOnly : Obligations.UninitializeZeroesRuntimeOnly :=
  fun _ _ _ hready => hready.command_eq _

/-! ## CONTROL where `Ready` holds (41_control.md) -/

section
variable {s : State} {i : Idx} {x : Spi} {body : Spi → State}

theorem Ready.controlCall_not_powered (h : Ready s i x) (hpow : x.run.powered = false) :
    controlCall i s body = .next (s.reply .error) := by
  rw [h.controlCall_eq, if_pos hpow]

theorem Ready.controlCall_busy (h : Ready s i x) (hpow : x.run.powered = true) (hbusy : x.run.busy = true) :
    controlCall i s body = .next (s.reply .errorBusy) := by
  rw [h.controlCall_eq, if_neg (by simp [hpow]), if_pos hbusy]

theorem Ready.controlCall_body (h : Ready s i x) (hpow : x.run.powered = true) (hbusy : x.run.busy = false) :
    controlCall i s body = .next (body x) :=
  controlCall_ready body h.1 h.2 hpow hbusy

end

/-- The control codes that test busy, all but abort (R140). -/
def busyTested (i : Idx) (ff : BitVec 4) (bits : BitVec 6) (order sss : BitVec 1) (ssm : BitVec 2) (v : Word) :
    List Instr :=
  [.ctlModeInactive i, .ctlModeMaster i ff bits order ssm v, .ctlModeSlave i ff bits order sss, .ctlSetBusSpeed i v,
   .ctlGetBusSpeed i, .ctlSetDefaultTxValue i v, .ctlControlSs i v]

theorem exec_busyTested (s : State) {i : Idx} {ff : BitVec 4} {bits : BitVec 6} {order sss : BitVec 1} {ssm : BitVec 2}
    {v : Word} {c : Instr} (hc : c ∈ busyTested i ff bits order sss ssm v) : ∃ body, exec c s = controlCall i s body := by
  simp only [busyTested, List.mem_cons, List.not_mem_nil, or_false] at hc
  obtain rfl | rfl | rfl | rfl | rfl | rfl | rfl := hc <;> exact ⟨_, rfl⟩

theorem execCtlAbortTransfer_of_not_powered {s : State} {i : Idx} {x : Spi} (h : Ready s i x)
    (hpow : x.run.powered = false) : execCtlAbortTransfer i s = .next (s.reply .error) := by
  rw [execCtlAbortTransfer, h.command_eq, if_pos (by simp [hpow])]

/-- Settles O21: all codes but abort share `controlCall`; abort makes the first of its tests itself. -/
theorem controlEntryChecks : Obligations.ControlEntryChecks := by
  intro s i x ff bits order sss ssm v hready
  refine ⟨fun hpow c hc => ?_, fun hpow hbusy c hc => ?_⟩
  · have hc' : c ∈ busyTested i ff bits order sss ssm v ++ [.ctlAbortTransfer i] := hc
    obtain hc | hc := List.mem_append.1 hc'
    · obtain ⟨body, he⟩ := exec_busyTested s hc
      exact he.trans (hready.controlCall_not_powered hpow)
    · rw [List.mem_singleton.1 hc]
      exact execCtlAbortTransfer_of_not_powered hready hpow
  · obtain ⟨body, he⟩ := exec_busyTested s hc
    exact he.trans (hready.controlCall_busy hpow hbusy)

theorem Runtime.inactiveRole_mode (r : Runtime) : r.inactiveRole.mode = r.mode &&& 0x3FFF00 := by
  refine BitVec.eq_of_getLsbD_eq fun j hj => ?_
  simp only [Runtime.inactiveRole, roleInactive, BitVec.getLsbD_append, BitVec.getLsbD_and, BitVec.getLsbD_extractLsb']
  interval_cases j
  all_goals simp

/-- Settles O23: past the two tests the code commits, and the mask that clears the role field is `inactiveRole`. -/
theorem modeInactiveClearsConfigured : Obligations.ModeInactiveClearsConfigured := by
  intro s i x hready hpow hbusy
  rw [← Runtime.inactiveRole_mode]
  exact hready.controlCall_body hpow hbusy

/-- Settles O28: three codes past the same two tests. -/
theorem busSpeedAndDefaultValue : Obligations.BusSpeedAndDefaultValue :=
  fun _ _ _ _ hready hpow hbusy => ⟨hready.controlCall_body hpow hbusy, hready.controlCall_body hpow hbusy,
    hready.controlCall_body hpow hbusy⟩

/-- Settles O29: past the two tests, the role and the policy decide. -/
theorem controlSsDrivesSelectedLine : Obligations.ControlSsDrivesSelectedLine := by
  intro s i x v hready hpow hbusy
  have hbody : exec (.ctlControlSs i v) s = .next (
      if x.run.role ≠ roleMaster ∨ x.run.ssm ≠ ssmSoftware then s.reply .error
      else (s.put i (x.driveSs s.slaveNo (v != 0))).reply .ok) := hready.controlCall_body hpow hbusy
  refine ⟨fun hss => ?_, fun hss => ?_⟩
  · have hne : (v != 0) = decide (v ≠ 0) := by rw [Bool.eq_iff_iff, bne_iff_ne, decide_eq_true_iff]
    rw [hbody, if_neg (by rw [← not_and_or]; exact not_not_intro hss), hne]
    rfl
  · rw [hbody, if_pos (show x.run.role ≠ roleMaster ∨ x.run.ssm ≠ ssmSoftware from not_and_or.1 hss)]
    rfl

end Sys2Proof.Machine

namespace Sys2Proof.Machine

/-! ## The mode selects where `Ready` holds (41_control.md R143 to R157) -/

/-! ### When a check fails (R144, R149, R151 to R153) -/

theorem masterBankFails_iff {d : Desc} : masterBankFails d = true ↔ d.bank = .slaveOnly := beq_iff_eq

theorem slaveBankFails_iff {d : Desc} : slaveBankFails d = true ↔ d.bank = .masterOnly := beq_iff_eq

theorem ssFails_iff {d : Desc} {k : Fin 4} {ssm : BitVec 2} : ssFails d k ssm = true ↔ ssm ≠ 0 ∧ d.cs[k] = none := by
  simp [ssFails, csPresent, ssmUnused]

theorem ffFails_iff {ff : BitVec 4} : ffFails ff = true ↔ 5 < ff.toNat := decide_eq_true_iff

theorem bitsFail_iff {d : Desc} {bits : BitVec 6} :
    bitsFail d bits = true ↔ bits.toNat < 4 ∨ (if d.wide then 32 else 16) < bits.toNat := by
  rw [bitsFail, Bool.or_eq_true, decide_eq_true_iff, decide_eq_true_iff, maxBits]

/-! ### The first check that fails decides (R143) -/

section
variable {d : Desc} {k : Fin 4} {ff : BitVec 4} {bits : BitVec 6} {order : BitVec 1} {ssm : BitVec 2}

/-- V3, V4 and V5, which both mode selects end with. -/
def formatChecks (d : Desc) (ff : BitVec 4) (bits : BitVec 6) (order : BitVec 1) : Option Status :=
  firstFailing [(ffFails ff, .frameFormatError), (bitsFail d bits, .dataBitsError), (orderFails order, .bitOrderError)]

theorem masterChecks_eq : masterChecks d k ff bits order ssm =
    if masterBankFails d then some .modeError else if ssFails d k ssm then some .ssModeError
    else formatChecks d ff bits order := rfl

theorem slaveChecks_eq : slaveChecks d ff bits order =
    if slaveBankFails d then some .modeError else formatChecks d ff bits order := rfl

theorem masterChecks_of_bank (h : d.bank = .slaveOnly) : masterChecks d k ff bits order ssm = some .modeError := by
  rw [masterChecks_eq, if_pos (masterBankFails_iff.2 h)]

theorem masterChecks_of_ss (hbank : d.bank = .masterOnly) (h : ssm ≠ 0 ∧ d.cs[k] = none) :
    masterChecks d k ff bits order ssm = some .ssModeError := by
  rw [masterChecks_eq, if_neg (by simp [masterBankFails, hbank]), if_pos (ssFails_iff.2 h)]

theorem masterChecks_of_format (hbank : d.bank = .masterOnly) (h : ssm = 0 ∨ d.cs[k] ≠ none) :
    masterChecks d k ff bits order ssm = formatChecks d ff bits order := by
  have hss : ¬ ssFails d k ssm = true := by
    rw [ssFails_iff, not_and_or, not_not]
    exact h
  rw [masterChecks_eq, if_neg (by simp [masterBankFails, hbank]), if_neg hss]

theorem slaveChecks_of_bank (h : d.bank = .masterOnly) : slaveChecks d ff bits order = some .modeError := by
  rw [slaveChecks_eq, if_pos (slaveBankFails_iff.2 h)]

theorem slaveChecks_of_format (hbank : d.bank = .slaveOnly) :
    slaveChecks d ff bits order = formatChecks d ff bits order := by
  rw [slaveChecks_eq, if_neg (by simp [slaveBankFails, hbank])]

theorem formatChecks_of_ff (h : 5 < ff.toNat) : formatChecks d ff bits order = some .frameFormatError := by
  simp [formatChecks, firstFailing, ffFails_iff.2 h]

theorem formatChecks_of_bits (hff : ff.toNat ≤ 5) (h : bits.toNat < 4 ∨ (if d.wide then 32 else 16) < bits.toNat) :
    formatChecks d ff bits order = some .dataBitsError := by
  have hff' : ffFails ff = false := decide_eq_false (Nat.not_lt.2 hff)
  simp [formatChecks, firstFailing, hff', bitsFail_iff.2 h]

theorem bitsFail_eq_false (hlo : 4 ≤ bits.toNat) (hhi : bits.toNat ≤ (if d.wide then 32 else 16)) :
    bitsFail d bits = false := by
  rw [← Bool.not_eq_true, bitsFail_iff]
  omega

theorem formatChecks_of_order (hff : ff.toNat ≤ 5) (hlo : 4 ≤ bits.toNat)
    (hhi : bits.toNat ≤ (if d.wide then 32 else 16)) : formatChecks d ff bits 1 = some .bitOrderError := by
  have hff' : ffFails ff = false := decide_eq_false (Nat.not_lt.2 hff)
  simp [formatChecks, firstFailing, hff', bitsFail_eq_false hlo hhi, orderFails]

theorem formatChecks_pass (hff : ff.toNat ≤ 5) (hlo : 4 ≤ bits.toNat)
    (hhi : bits.toNat ≤ (if d.wide then 32 else 16)) : formatChecks d ff bits 0 = none := by
  have hff' : ffFails ff = false := decide_eq_false (Nat.not_lt.2 hff)
  simp [formatChecks, firstFailing, hff', bitsFail_eq_false hlo hhi, orderFails]

end

section
variable {s : State} {i : Idx} {x : Spi} {ff : BitVec 4} {bits : BitVec 6} {order sss : BitVec 1} {ssm : BitVec 2} {v : Word}
  (h : Ready s i x) (hpow : x.run.powered = true) (hbusy : x.run.busy = false)
include h hpow hbusy

theorem execCtlModeMaster_fails {c : Status} (hv : masterChecks x.desc s.slaveNo ff bits order ssm = some c) :
    execCtlModeMaster i ff bits order ssm v s = .next (s.reply c) := by
  rw [execCtlModeMaster, h.controlCall_body hpow hbusy, hv]

theorem execCtlModeSlave_fails {c : Status} (hv : slaveChecks x.desc ff bits order = some c) :
    execCtlModeSlave i ff bits order sss s = .next (s.reply c) := by
  rw [execCtlModeSlave, h.controlCall_body hpow hbusy, hv]

theorem execCtlModeMaster_passes (hv : masterChecks x.desc s.slaveNo ff bits order ssm = none) :
    execCtlModeMaster i ff bits order ssm v s = .next
      { (s.put i ((x.commitMode (modeWord roleMaster ff bits 0 ssm 0) ff bits).setSpeed v)).reply .ok with
        bpu := widthToBytes bits } := by
  rw [execCtlModeMaster, h.controlCall_body hpow hbusy, hv]

theorem execCtlModeSlave_passes (hv : slaveChecks x.desc ff bits order = none) :
    execCtlModeSlave i ff bits order sss s = .next
      { (s.put i (x.commitMode (modeWord roleSlave ff bits 0 0 sss) ff bits)).reply .ok with
        bpu := widthToBytes bits } := by
  rw [execCtlModeSlave, h.controlCall_body hpow hbusy, hv]

end

/-- Settles O24: the checks before the failing one pass. -/
theorem modeMasterFirstFailingCheck : Obligations.ModeMasterFirstFailingCheck := by
  intro s i x ff bits order ssm v hready hpow hbusy
  have fails {c : Status} (hv : masterChecks x.desc s.slaveNo ff bits order ssm = some c) :
      exec (.ctlModeMaster i ff bits order ssm v) s = .next (s.reply c) := execCtlModeMaster_fails hready hpow hbusy hv
  refine ⟨fun hbank => fails (masterChecks_of_bank hbank), fun hbank => ⟨fun hss => fails (masterChecks_of_ss hbank hss),
    fun hss => ?_⟩⟩
  have hformat := masterChecks_of_format (ff := ff) (bits := bits) (order := order) hbank hss
  refine ⟨fun hff => fails (hformat.trans (formatChecks_of_ff hff)), fun hff =>
    ⟨fun hbits => ?_, fun hlo hhi horder => ?_⟩⟩
  · exact fails (hformat.trans (formatChecks_of_bits hff hbits))
  · exact fails (hformat.trans (horder ▸ formatChecks_of_order hff hlo hhi))

/-- Settles O26: as O24, without V2. -/
theorem modeSlaveFirstFailingCheck : Obligations.ModeSlaveFirstFailingCheck := by
  intro s i x ff bits order sss hready hpow hbusy
  have fails {c : Status} (hv : slaveChecks x.desc ff bits order = some c) :
      exec (.ctlModeSlave i ff bits order sss) s = .next (s.reply c) := execCtlModeSlave_fails hready hpow hbusy hv
  refine ⟨fun hbank => fails (slaveChecks_of_bank hbank), fun hbank => ?_⟩
  have hformat := slaveChecks_of_format (ff := ff) (bits := bits) (order := order) hbank
  refine ⟨fun hff => fails (hformat.trans (formatChecks_of_ff hff)), fun hff =>
    ⟨fun hbits => ?_, fun hlo hhi horder => ?_⟩⟩
  · exact fails (hformat.trans (formatChecks_of_bits hff hbits))
  · exact fails (hformat.trans (horder ▸ formatChecks_of_order hff hlo hhi))

/-! ### The commit (R154) -/

/-- The mode word as its fields, each at its place (R23). -/
theorem modeWord_eq_or (r : BitVec 8) (ff : BitVec 4) (bits : BitVec 6) (ssm : BitVec 2) (sss : BitVec 1) :
    modeWord r ff bits 0 ssm sss = r.setWidth 22 ||| ff.setWidth 22 <<< 8 ||| bits.setWidth 22 <<< 12 |||
      ssm.setWidth 22 <<< 19 ||| sss.setWidth 22 <<< 21 := by
  refine BitVec.eq_of_getLsbD_eq fun j hj => ?_
  simp only [modeWord, BitVec.getLsbD_append, BitVec.getLsbD_or, BitVec.getLsbD_shiftLeft, BitVec.getLsbD_setWidth]
  interval_cases j
  all_goals simp

theorem modeWord_master (ff : BitVec 4) (bits : BitVec 6) (ssm : BitVec 2) : modeWord roleMaster ff bits 0 ssm 0 =
    0x01 ||| ff.setWidth 22 <<< 8 ||| bits.setWidth 22 <<< 12 ||| ssm.setWidth 22 <<< 19 :=
  (modeWord_eq_or ..).trans BitVec.or_zero

theorem modeWord_slave (ff : BitVec 4) (bits : BitVec 6) (sss : BitVec 1) : modeWord roleSlave ff bits 0 0 sss =
    0x02 ||| ff.setWidth 22 <<< 8 ||| bits.setWidth 22 <<< 12 ||| sss.setWidth 22 <<< 21 :=
  (modeWord_eq_or ..).trans (congrArg (· ||| _) BitVec.or_zero)

/-- The frame-format registers after a legal format (R99). -/
theorem Hw.setFormat_eq (h : Hw) {ff : BitVec 4} (hff : ff.toNat ≤ 5) : h.setFormat ff = { h with
    frf := if ff = 4 then .tiSsi else if ff = 5 then .microwire else .motorolaSpi
    cpol := if ff.toNat ≤ 3 then ff.getLsbD 1 else h.cpol
    cpha := if ff.toNat ≤ 3 then ff.getLsbD 0 else h.cpha } := by
  by_cases h4 : ff = 4
  · subst h4
    rfl
  by_cases h5 : ff = 5
  · subst h5
    rfl
  have hlow : ff.toNat ≤ 3 := by
    have h4' : ff.toNat ≠ 4 := fun h => h4 (BitVec.eq_of_toNat_eq h)
    have h5' : ff.toNat ≠ 5 := fun h => h5 (BitVec.eq_of_toNat_eq h)
    omega
  rw [Hw.setFormat, if_neg h4, if_neg h5, if_neg h4, if_neg h5, if_pos hlow, if_pos hlow]

/-- Settles O25: every check passes, so the select commits; the mode word and the formats are written out. -/
theorem modeMasterCommits : Obligations.ModeMasterCommits := by
  intro s i x ff bits ssm v hready hpow hbusy hbank hss hff hlo hhi
  refine (execCtlModeMaster_passes hready hpow hbusy
    ((masterChecks_of_format hbank hss).trans (formatChecks_pass hff hlo hhi))).trans ?_
  rw [Spi.commitMode, modeWord_master, Hw.setFormat_eq x.hw hff, widthToBytes]
  rfl

/-- Settles O27: as O25, and the bus speed is not written. -/
theorem modeSlaveCommits : Obligations.ModeSlaveCommits := by
  intro s i x ff bits sss hready hpow hbusy hbank hff hlo hhi
  refine (execCtlModeSlave_passes hready hpow hbusy
    ((slaveChecks_of_format hbank).trans (formatChecks_pass hff hlo hhi))).trans ?_
  rw [Spi.commitMode, modeWord_slave, Hw.setFormat_eq x.hw hff, widthToBytes]
  rfl

end Sys2Proof.Machine

namespace Sys2Proof.Machine

/-! ## Accepted transfer calls and GETSTATUS where `Ready` holds (42_transfer_dispatch.md) -/

/-- A transfer call that passes P1 to P3 is its acceptance. -/
theorem TransferCall.exec_eq {s : State} {i : Idx} {x : Spi} {c : Instr} {tb rb n : Word} {dir : Tmod}
    (hc : TransferCall i c tb rb n dir) (h : Ready s i x) (hconf : x.run.configured = true) (hbusy : x.run.busy = false) :
    exec c s = .next (accept i tb rb n dir x s) := by
  have body : ∀ {required : List Word} {body : Spi → State}, 0 ∉ required → n ≠ 0 →
      transferCall i s required n body = .next (body x) := by
    intro required body hreq hn
    rw [transferCall_of_not_null h hreq hn, if_neg (by simp [hconf]), if_neg (by simp [hbusy])]
  cases hc with
  | send ha hn => exact body (by simpa using ha.symm) hn
  | receive ha hn => exact body (by simpa using ha.symm) hn
  | transfer ha hb hn => exact body (by simpa using ⟨ha.symm, hb.symm⟩) hn

theorem accept_of_not_bound (i : Idx) (tb rb n : Word) (dir : Tmod) (s : State) {x : Spi} (hb : dmaBound x.desc = false) :
    accept i tb rb n dir x s = unmaskIrq i dir (x.accept tb rb n s.bpu dir) s := by
  rw [accept, hb]
  rfl

theorem accept_of_bound (i : Idx) (tb rb n : Word) (dir : Tmod) (s : State) {x : Spi} (hb : dmaBound x.desc = true) :
    accept i tb rb n dir x s = armDma i n dir (x.accept tb rb n s.bpu dir) s := by
  rw [accept, hb]
  rfl

/-- Settles O31: the three calls differ in their buffers and direction only, and the direction gives the sources. -/
theorem transferAcceptedInInterruptMode : Obligations.TransferAcceptedInInterruptMode := by
  intro s i x a b n hready ha hb hn hconf hbusy htx hrx c hc
  have accepted : ∀ {c tb rb dir}, TransferCall i c tb rb n dir →
      exec c s = .next (unmaskIrq i dir (x.accept tb rb n s.bpu dir) s) := by
    intro c tb rb dir hc
    rw [hc.exec_eq hready hconf hbusy, accept_of_not_bound _ _ _ _ _ _ (by rw [dmaBound, htx, hrx]; rfl)]
  simp only [List.mem_cons, List.not_mem_nil, or_false] at hc
  obtain rfl | rfl | rfl := hc
  · exact accepted (.send ha hn)
  · exact accepted (.receive ha hn)
  · exact accepted (.transfer ha hb hn)

/-! ### The DMA path (R178 to R185) -/

theorem memorySide_eq (a b : Word) :
    memorySide a b = (.mem (if b = 0 then a else b), if b = 0 then .fixed else .inc) := by
  unfold memorySide
  split <;> rfl

theorem txConfig_eq (i : Idx) (p : Params) (bpu : Nat) (n tb : Word) : txConfig i p bpu n tb =
    { size := 8 * bpu, beats := min n.toNat 1023, arb := p.dmaArb, dst := .dr i, dstInc := .fixed,
      src := .mem (if tb = 0 then p.scratchAddr else tb), srcInc := if tb = 0 then .fixed else .inc } := by
  rw [txConfig, memorySide_eq]
  rfl

theorem rxConfig_eq (i : Idx) (p : Params) (bpu : Nat) (n rb : Word) : rxConfig i p bpu n rb =
    { size := 8 * bpu, beats := min n.toNat 1023, arb := p.dmaArb, src := .dr i, srcInc := .fixed,
      dst := .mem (if rb = 0 then p.scratchAddr else rb), dstInc := if rb = 0 then .fixed else .inc } := by
  rw [rxConfig, memorySide_eq]
  rfl

theorem isMasterTag_iff {t : Tag} : isMasterTag t = true ↔ t ≠ .slave := by
  cases t <;> simp [isMasterTag]

theorem Spi.kickStart_eq (x : Spi) (p : Params) (dir : Tmod) : x.kickStart p dir = { x with
    drlog := x.drlog ++ if dir = .rxOnly ∧ x.desc.tag ≠ .slave then [p.dummyByte.setWidth 32] else [] } := by
  simp only [Spi.kickStart, isMasterTag_iff]
  split
  · rfl
  · rw [List.append_nil]

section
variable (i : Idx) (n : Word) (dir : Tmod) {x : Spi} (s : State)

/-- Every bound channel is configured when no configure call fails. -/
theorem configureAll_succeeds (p : Params) (bpu : Nat) (htx : x.desc.dmaTxBound = true → x.ser.txCfgOk = true)
    (hrx : x.desc.dmaRxBound = true → x.ser.rxCfgOk = true) : configureAll i p bpu n x =
    { inst := { x with
        dmaTx := if x.desc.dmaTxBound then x.dmaTx.configure (txConfig i p bpu n x.xfer.txBuf) else x.dmaTx
        dmaRx := if x.desc.dmaRxBound then x.dmaRx.configure (rxConfig i p bpu n x.xfer.rxBuf) else x.dmaRx }
      calls := (if x.desc.dmaTxBound then [.dmaConfigure i .tx (txConfig i p bpu n x.xfer.txBuf)] else []) ++
        if x.desc.dmaRxBound then [.dmaConfigure i .rx (rxConfig i p bpu n x.xfer.rxBuf)] else []
      ok := true } := by
  cases hbt : x.desc.dmaTxBound <;> cases hbr : x.desc.dmaRxBound <;>
    simp_all [configureAll, Arming.configureTx, Arming.configureRx]

/-- The transmit channel's configure call comes first, so its failure is the only call. -/
theorem configureAll_tx_fails (p : Params) (bpu : Nat) (hbt : x.desc.dmaTxBound = true) (htx : x.ser.txCfgOk = false) :
    configureAll i p bpu n x =
      { inst := x, calls := [.dmaConfigure i .tx (txConfig i p bpu n x.xfer.txBuf)], ok := false } := by
  simp [configureAll, Arming.configureTx, Arming.configureRx, hbt, htx]

theorem configureAll_rx_fails (p : Params) (bpu : Nat) (hbt : x.desc.dmaTxBound = true) (htx : x.ser.txCfgOk = true)
    (hbr : x.desc.dmaRxBound = true) (hrx : x.ser.rxCfgOk = false) : configureAll i p bpu n x =
      { inst := { x with dmaTx := x.dmaTx.configure (txConfig i p bpu n x.xfer.txBuf) }
        calls := [.dmaConfigure i .tx (txConfig i p bpu n x.xfer.txBuf), .dmaConfigure i .rx (rxConfig i p bpu n x.xfer.rxBuf)]
        ok := false } := by
  simp [configureAll, Arming.configureTx, Arming.configureRx, hbt, htx, hbr, hrx]

theorem configureAll_rx_alone_fails (p : Params) (bpu : Nat) (hbt : x.desc.dmaTxBound = false)
    (hbr : x.desc.dmaRxBound = true) (hrx : x.ser.rxCfgOk = false) : configureAll i p bpu n x =
      { inst := x, calls := [.dmaConfigure i .rx (rxConfig i p bpu n x.xfer.rxBuf)], ok := false } := by
  simp [configureAll, Arming.configureTx, Arming.configureRx, hbt, hbr, hrx]

theorem armDma_of_fails {y : Spi} {calls : List XCall}
    (h : configureAll i s.params s.bpu n x = { inst := y, calls := calls, ok := false }) :
    armDma i n dir x s = ((s.xcalls calls).put i y).reply .error := by
  simp only [armDma, h, Bool.false_eq_true, if_false]

/-- `enableBound` on the channels a successful dispatch has configured. -/
theorem Spi.enableBound_eq (x : Spi) (tx rx : Channel) :
    Spi.enableBound { x with
      dmaTx := if x.desc.dmaTxBound then tx else x.dmaTx, dmaRx := if x.desc.dmaRxBound then rx else x.dmaRx } =
    { x with
      dmaTx := if x.desc.dmaTxBound then tx.enable else x.dmaTx
      dmaRx := if x.desc.dmaRxBound then rx.enable else x.dmaRx } := by
  cases hbt : x.desc.dmaTxBound <;> cases hbr : x.desc.dmaRxBound <;> simp [Spi.enableBound, hbt, hbr]

theorem armDma_succeeds (htx : x.desc.dmaTxBound = true → x.ser.txCfgOk = true)
    (hrx : x.desc.dmaRxBound = true → x.ser.rxCfgOk = true) {gT gR : DmaCfg}
    (hT : txConfig i s.params s.bpu n x.xfer.txBuf = gT) (hR : rxConfig i s.params s.bpu n x.xfer.rxBuf = gR) :
    armDma i n dir x s = { s with
      ret := 0
      dmaEngineEn := true
      xlog := s.xlog ++ ((if x.desc.dmaTxBound then [.dmaConfigure i .tx gT] else []) ++
        (if x.desc.dmaRxBound then [.dmaConfigure i .rx gR] else []) ++
        (if x.desc.dmaTxBound then [.dmaEnable i .tx] else []) ++
        (if x.desc.dmaRxBound then [.dmaEnable i .rx] else []) ++ [.dmaEngineEnable])
      spis := setSpi s.spis i { x with
        dmaTx := if x.desc.dmaTxBound then (x.dmaTx.configure gT).enable else x.dmaTx
        dmaRx := if x.desc.dmaRxBound then (x.dmaRx.configure gR).enable else x.dmaRx
        drlog := x.drlog ++
          if dir = .rxOnly ∧ x.desc.tag ≠ .slave then [s.params.dummyByte.setWidth 32] else [] } } := by
  subst hT hR
  simp only [armDma, configureAll_succeeds i n s.params s.bpu htx hrx, Spi.enableBound_eq, Spi.kickStart_eq, enableCalls,
    List.append_assoc, if_true]
  rfl

end

/-- Settles O32: acceptance, then every bound channel configured and enabled; the configs and the kick-start are written
out. -/
theorem transferAcceptedInDmaMode : Obligations.TransferAcceptedInDmaMode := by
  intro s i x a b n hready ha hb hn hconf hbusy hbound htx hrx c hc gT gR hgT hgR
  have accepted : ∀ {c tb rb dir}, TransferCall i c tb rb n dir →
      exec c s = .next (armDma i n dir (x.accept tb rb n s.bpu dir) s) := by
    intro c tb rb dir hc
    rw [hc.exec_eq hready hconf hbusy, accept_of_bound _ _ _ _ _ _ (dmaBound_iff.2 hbound)]
  have armed (tb rb : Word) (dir : Tmod) (hT : txConfig i s.params s.bpu n tb = gT)
      (hR : rxConfig i s.params s.bpu n rb = gR) :=
    armDma_succeeds i n dir (x := x.accept tb rb n s.bpu dir) s htx hrx hT hR
  simp only [List.mem_cons, List.not_mem_nil, or_false] at hc
  subst hgT hgR
  obtain rfl | rfl | rfl := hc
  · exact (accepted (.send ha hn)).trans (congrArg _ (armed a 0 .txOnly (txConfig_eq ..) (rxConfig_eq ..)))
  · exact (accepted (.receive ha hn)).trans (congrArg _ (armed 0 a .rxOnly (txConfig_eq ..) (rxConfig_eq ..)))
  · exact (accepted (.transfer ha hb hn)).trans (congrArg _ (armed a b .txRx (txConfig_eq ..) (rxConfig_eq ..)))

/-- Settles O33: which configure calls are made, by the channels bound and the call that fails. -/
theorem dmaConfigureFailureLeavesBusy : Obligations.DmaConfigureFailureLeavesBusy := by
  intro s i x a b n hready ha hb hn hconf hbusy c hc gT gR hgT hgR y hy
  have accepted : ∀ {c tb rb dir z calls}, TransferCall i c tb rb n dir →
      (x.desc.dmaTxBound = true ∨ x.desc.dmaRxBound = true) →
      configureAll i s.params s.bpu n (x.accept tb rb n s.bpu dir) = { inst := z, calls := calls, ok := false } →
      exec c s = .next (((s.xcalls calls).put i z).reply .error) := by
    intro c tb rb dir z calls hc hbound hfail
    rw [hc.exec_eq hready hconf hbusy, accept_of_bound _ _ _ _ _ _ (dmaBound_iff.2 hbound), armDma_of_fails _ _ _ _ hfail]
  have fails : ∀ {c tb rb dir}, TransferCall i c tb rb n dir → txConfig i s.params s.bpu n tb = gT →
      rxConfig i s.params s.bpu n rb = gR → x.accept tb rb n s.bpu dir = y →
      (x.desc.dmaTxBound = true → x.ser.txCfgOk = false →
        exec c s = .next (((s.xcalls [.dmaConfigure i .tx gT]).put i y).reply .error)) ∧
      (x.desc.dmaTxBound = true → x.ser.txCfgOk = true → x.desc.dmaRxBound = true → x.ser.rxCfgOk = false →
        exec c s = .next (((s.xcalls [.dmaConfigure i .tx gT, .dmaConfigure i .rx gR]).put i
          { y with dmaTx := x.dmaTx.configure gT }).reply .error)) ∧
      (x.desc.dmaTxBound = false → x.desc.dmaRxBound = true → x.ser.rxCfgOk = false →
        exec c s = .next (((s.xcalls [.dmaConfigure i .rx gR]).put i y).reply .error)) := by
    rintro c tb rb dir hc rfl rfl rfl
    exact ⟨fun hbt htx => accepted hc (.inl hbt) (configureAll_tx_fails i n s.params s.bpu hbt htx),
      fun hbt htx hbr hrx => accepted hc (.inl hbt) (configureAll_rx_fails i n s.params s.bpu hbt htx hbr hrx),
      fun hbt hbr hrx => accepted hc (.inr hbr) (configureAll_rx_alone_fails i n s.params s.bpu hbt hbr hrx)⟩
  simp only [List.mem_cons, List.not_mem_nil, or_false] at hc
  subst hgT hgR hy
  obtain rfl | rfl | rfl := hc
  · exact fails (.send ha hn) (txConfig_eq ..) (rxConfig_eq ..) rfl
  · exact fails (.receive ha hn) (txConfig_eq ..) (rxConfig_eq ..) rfl
  · exact fails (.transfer ha hb hn) (txConfig_eq ..) (rxConfig_eq ..) rfl

theorem Runtime.statusWord_eq (r : Runtime) : r.statusWord =
    (if r.busy then 1 else 0) + (if r.dataLost then 2 else 0) + (if r.modeFault then 4 else 0) := by
  rw [Runtime.statusWord]
  cases r.busy <;> cases r.dataLost <;> cases r.modeFault <;> rfl

/-- Settles O35: the query has no test. -/
theorem getStatusPacksTriple : Obligations.GetStatusPacksTriple := by
  intro s i x hready
  rw [← Runtime.statusWord_eq]
  exact hready.command_eq _

end Sys2Proof.Machine

namespace Sys2Proof.Machine

/-! ## The interrupt handler (43_interrupt_pump.md) -/

/-- When a stimulus is taken (R94, R200, R230). -/
theorem stimulus_next_iff {i : Idx} {s : State} {en : Spi → Bool} {body : Spi → State} :
    (∃ t, stimulus i s en body = .next t) ↔ ∃ x, Ready s i x ∧ en x = true := by
  constructor
  · rintro ⟨t, ht⟩
    obtain ⟨hctx, x, hx, hen, -⟩ := stimulus_cases ht
    exact ⟨x, ⟨hctx, hx⟩, hen⟩
  · rintro ⟨x, ⟨hctx, hx⟩, hen⟩
    exact ⟨_, stimulus_ready body hctx hx hen⟩

/-! ### The conditions (R200, R202) -/

theorem Spi.irqEnabled_iff {x : Spi} : x.irqEnabled = true ↔ x.hw.irqEn = true ∧ x.ser.raw &&& x.hw.imr ≠ 0 := by
  rw [Spi.irqEnabled, Bool.and_eq_true, bne_iff_ne, Spi.isr]

theorem Spi.overflowPending_iff {x : Spi} : x.overflowPending = true ↔ x.ser.raw &&& x.hw.imr &&& 0b01110 ≠ 0 := by
  rw [Spi.overflowPending, bne_iff_ne, Spi.isr, srcOverflow]
  rfl

theorem Spi.receiveReady_iff {x : Spi} :
    x.receiveReady = true ↔ x.ser.srRfne = true ∧ x.ser.raw &&& x.hw.imr &&& 0b10000 ≠ 0 := by
  rw [Spi.receiveReady, Bool.and_eq_true, bne_iff_ne, Spi.isr, srcRxf]
  rfl

theorem Spi.transmitReady_iff {x : Spi} : x.transmitReady = true ↔
    x.ser.srTfnf = true ∧ x.ser.raw &&& x.hw.imr &&& 0b00001 ≠ 0 ∧ x.xfer.txBuf ≠ 0 := by
  rw [Spi.transmitReady, Bool.and_eq_true, Bool.and_eq_true, bne_iff_ne, bne_iff_ne, Spi.isr, srcTxe, and_assoc]
  rfl

theorem Spi.receiveReady_eq_false {x : Spi} (h : x.ser.srRfne = false ∨ x.ser.raw &&& x.hw.imr &&& 0b10000 = 0) :
    ¬ x.receiveReady = true := by
  rw [Spi.receiveReady_iff]
  rintro ⟨hrfne, hrxf⟩
  exact h.elim (fun h => nomatch h.symm.trans hrfne) hrxf

/-! ### The priority chain (R201, R217) -/

section
variable (i : Idx) {x : Spi} (s : State)

theorem handler_of_overflow (h : x.ser.raw &&& x.hw.imr &&& 0b01110 ≠ 0) :
    handler i x s = (s.put i x.loseData).emit i x.run.cb evDataLost :=
  if_pos (Spi.overflowPending_iff.2 h)

theorem handler_of_no_overflow (h : x.ser.raw &&& x.hw.imr &&& 0b01110 = 0) : handler i x s =
    if x.receiveReady then receiveStep i x s else if x.transmitReady then transmitStep i x s else s :=
  if_neg fun ho => Spi.overflowPending_iff.1 ho h

theorem handler_of_receive (h : x.ser.raw &&& x.hw.imr &&& 0b01110 = 0) (hrfne : x.ser.srRfne = true)
    (hrxf : x.ser.raw &&& x.hw.imr &&& 0b10000 ≠ 0) : handler i x s = receiveStep i x s := by
  rw [handler_of_no_overflow i s h, if_pos (Spi.receiveReady_iff.2 ⟨hrfne, hrxf⟩)]

theorem handler_of_no_receive (h : x.ser.raw &&& x.hw.imr &&& 0b01110 = 0)
    (hrx : x.ser.srRfne = false ∨ x.ser.raw &&& x.hw.imr &&& 0b10000 = 0) :
    handler i x s = if x.transmitReady then transmitStep i x s else s := by
  rw [handler_of_no_overflow i s h, if_neg (Spi.receiveReady_eq_false hrx)]

theorem handler_of_transmit (h : x.ser.raw &&& x.hw.imr &&& 0b01110 = 0)
    (hrx : x.ser.srRfne = false ∨ x.ser.raw &&& x.hw.imr &&& 0b10000 = 0) (htfnf : x.ser.srTfnf = true)
    (htxe : x.ser.raw &&& x.hw.imr &&& 0b00001 ≠ 0) (hbuf : x.xfer.txBuf ≠ 0) : handler i x s = transmitStep i x s := by
  rw [handler_of_no_receive i s h hrx, if_pos (Spi.transmitReady_iff.2 ⟨htfnf, htxe, hbuf⟩)]

theorem receiveStep_of_drain (hbuf : x.xfer.rxBuf ≠ 0) (hcnt : x.xfer.rxCnt.toNat < x.xfer.num.toNat) :
    receiveStep i x s = drain i x s := by
  rw [receiveStep, if_neg hbuf, if_pos (BitVec.lt_def.2 hcnt)]

theorem receiveStep_of_complete (hbuf : x.xfer.rxBuf ≠ 0) (hcnt : x.xfer.num.toNat ≤ x.xfer.rxCnt.toNat) :
    receiveStep i x s = s.emit i x.run.cb evDataLost := by
  rw [receiveStep, if_neg hbuf, if_neg fun h => Nat.not_lt.2 hcnt (BitVec.lt_def.1 h)]

theorem transmitStep_of_write (hcnt : x.xfer.txCnt.toNat < x.xfer.num.toNat) :
    transmitStep i x s = (s.put i (x.sent s.bpu (txUnit x s))).hold i .afterTx :=
  if_pos (BitVec.lt_def.2 hcnt)

theorem transmitStep_of_complete (hcnt : x.xfer.num.toNat ≤ x.xfer.txCnt.toNat) :
    transmitStep i x s = s.emit i x.run.cb evDataLost :=
  if_neg fun h => Nat.not_lt.2 hcnt (BitVec.lt_def.1 h)

/-- The endings of a drain (R206, R207). -/
theorem drain_eq : drain i x s =
    if x.xfer.rxCnt + unitWord s.bpu = x.xfer.num then
      (({ s with mem := memWrite s.mem x.drainAddr s.bpu x.ser.drIn } : State).put i
        (x.drained s.bpu).receiveComplete).emit i x.run.cb evTransferComplete
    else if x.needsFiller then
      (({ s with mem := memWrite s.mem x.drainAddr s.bpu x.ser.drIn } : State).put i
        ((x.drained s.bpu).drWrite (dummyWord s.params))).hold i .afterFiller
    else ({ s with mem := memWrite s.mem x.drainAddr s.bpu x.ser.drIn } : State).put i (x.drained s.bpu) := rfl

end

theorem Spi.needsFiller_iff {x : Spi} : x.needsFiller = true ↔ x.desc.tag ≠ .slave ∧ x.xfer.txBuf = 0 := by
  rw [Spi.needsFiller, Bool.and_eq_true, isMasterTag_iff, beq_iff_eq]

/-- What `emit` appends, when the mask is an event's. -/
theorem State.emit_of_mask (s : State) (i : Idx) (cb : Word) {m : Word} (hm : m ≠ 0) :
    s.emit i cb m = { s with evlog := s.evlog ++ if cb = 0 then [] else [⟨i, cb, m⟩] } := by
  rw [State.emit_eq]
  by_cases hcb : cb = 0
  · rw [if_pos hcb, if_neg fun h => h.2 hcb]
  · rw [if_neg hcb, if_pos ⟨hm, hcb⟩]

theorem evDataLost_ne_zero : evDataLost ≠ 0 := by decide

theorem evTransferComplete_ne_zero : evTransferComplete ≠ 0 := by decide

theorem Ready.irq_eq {s : State} {i : Idx} {x : Spi} (h : Ready s i x) (hen : x.hw.irqEn = true)
    (hpending : x.ser.raw &&& x.hw.imr ≠ 0) : exec (.irq i) s = .next (handler i x s) :=
  stimulus_ready _ h.1 h.2 (Spi.irqEnabled_iff.2 ⟨hen, hpending⟩)

theorem ne_zero_of_and_ne_zero {w : Nat} {a b : BitVec w} (h : a &&& b ≠ 0) : a ≠ 0 := by
  rintro rfl
  exact h BitVec.zero_and

/-- Settles O36: the enabling condition is `Spi.irqEnabled`. -/
theorem irqTakenExactlyWhenEnabled : Obligations.IrqTakenExactlyWhenEnabled := by
  intro s i
  have hirq : (∃ t, exec (.irq i) s = .next t) ↔ ∃ x, Ready s i x ∧ x.irqEnabled = true := stimulus_next_iff
  simp only [hirq, Spi.irqEnabled_iff]

/-- Settles O37: the overflow test is first in the chain. -/
theorem overflowClassPreempts : Obligations.OverflowClassPreempts := by
  intro s i x hready hen hover
  rw [hready.irq_eq hen (ne_zero_of_and_ne_zero hover), handler_of_overflow i s hover,
    State.emit_of_mask _ _ _ evDataLost_ne_zero]
  rfl

/-- Settles O38: the chain reaches the drain, and `drain_eq` has its three endings. -/
theorem drainStoresUnitAndAdvances : Obligations.DrainStoresUnitAndAdvances := by
  rintro s i x hready hen hover hrfne hrxf hbuf hcnt _ rfl m rfl
  have hirq : exec (.irq i) s = .next (drain i x s) := by
    rw [hready.irq_eq hen (ne_zero_of_and_ne_zero hrxf), handler_of_receive i s hover hrfne hrxf,
      receiveStep_of_drain i s hbuf hcnt]
  refine ⟨fun (hdone : x.xfer.rxCnt + unitWord s.bpu = x.xfer.num) => ?_,
    fun (hmore : x.xfer.rxCnt + unitWord s.bpu ≠ x.xfer.num) hmaster htx => ?_,
    fun (hmore : x.xfer.rxCnt + unitWord s.bpu ≠ x.xfer.num) hno => ?_⟩
  · rw [hirq, drain_eq, if_pos hdone, State.emit_of_mask _ _ _ evTransferComplete_ne_zero]
    rfl
  · rw [hirq, drain_eq, if_neg hmore, if_pos (Spi.needsFiller_iff.2 ⟨hmaster, htx⟩)]
    rfl
  · have hfiller : ¬ x.needsFiller = true := by
      rw [Spi.needsFiller_iff, not_and_or, not_not]
      exact hno
    rw [hirq, drain_eq, if_neg hmore, if_neg hfiller]
    rfl

/-- Settles O39: on either side a total that is reached leaves only the event. -/
theorem alreadyCompleteRaisesDataLostOnly : Obligations.AlreadyCompleteRaisesDataLostOnly := by
  rintro s i x hready hen hover hcomplete
  have hemit : exec (.irq i) s = .next (s.emit i x.run.cb evDataLost) := by
    obtain ⟨hrfne, hrxf, hbuf, hcnt⟩ | ⟨hrx, htfnf, htxe, hbuf, hcnt⟩ := hcomplete
    · rw [hready.irq_eq hen (ne_zero_of_and_ne_zero hrxf), handler_of_receive i s hover hrfne hrxf,
        receiveStep_of_complete i s hbuf hcnt]
    · rw [hready.irq_eq hen (ne_zero_of_and_ne_zero htxe), handler_of_transmit i s hover hrx htfnf htxe hbuf,
        transmitStep_of_complete i s hcnt]
  rw [hemit, State.emit_of_mask _ _ _ evDataLost_ne_zero]
  rfl

/-- Settles O40: the chain reaches the write, which holds. -/
theorem transmitWritesUnitAndHolds : Obligations.TransmitWritesUnitAndHolds := by
  intro s i x hready hen hover hrx htfnf htxe hbuf hcnt
  rw [hready.irq_eq hen (ne_zero_of_and_ne_zero htxe), handler_of_transmit i s hover hrx htfnf htxe hbuf,
    transmitStep_of_write i s hcnt]
  rfl

/-- Settles O42: no test of the chain holds, or the receive step has no buffer. -/
theorem handlerWithNothingToServe : Obligations.HandlerWithNothingToServe := by
  intro s i x hready hen hpending hover hnothing
  rw [hready.irq_eq hen hpending]
  obtain ⟨hrfne, hrxf, hbuf⟩ | ⟨hrx, htx⟩ := hnothing
  · rw [handler_of_receive i s hover hrfne hrxf, receiveStep, if_pos hbuf]
  · have hready : ¬ x.transmitReady = true := by
      rw [Spi.transmitReady_iff]
      rintro ⟨htfnf, htxe, hbuf⟩
      obtain h | h | h := htx
      · exact nomatch h.symm.trans htfnf
      · exact htxe h
      · exact hbuf h
    rw [handler_of_no_receive i s hover hrx, if_neg hready]

/-! ### Phase B (R211, R216) -/

/-- Phase B is taken when the flag is clear and no environment move is next, whether its turn is said or not. -/
theorem step_phaseB {s : State} {i : Idx} {k : Cont} {x : Spi} {rest : List Input} (hctx : s.ctx = .isrWait i k)
    (hx : s.spi? i = some x) (hbusy : x.ser.srBusy = false) (hin : s.inputs = .resume :: rest ∨
      (s.inputs = rest ∧ (rest = [] ∨ ∃ f more, rest = .command f :: more ∨ rest = .stimulus f :: more))) :
    step s = .next (phaseB i k x { s with inputs := rest }) := by
  have hnext : envIsNext s.inputs = false ∧ afterResume s.inputs = rest := by
    obtain h | ⟨h, rfl | ⟨f, more, rfl | rfl⟩⟩ := hin <;> rw [h] <;> exact ⟨rfl, rfl⟩
  simp [step, hctx, waitStep, hx, hbusy, hnext]

/-- Settles O41: `phaseB` by its continuation, then `finishTx` by the total, the direction and `P_TX_MASK`. -/
theorem phaseBCompletesTransmit : Obligations.PhaseBCompletesTransmit := by
  intro s i x rest hx hbusy hin
  refine ⟨fun hctx => step_phaseB hctx hx hbusy hin, fun hctx => ?_⟩
  have hstep : step s = .next (finishTx i x { s with inputs := rest }).leaveHandler := step_phaseB hctx hx hbusy hin
  refine ⟨fun hmore => ?_, fun hdone hdir => ?_, fun hdone hdir hmask => ?_, fun hdone hdir hmask => ?_⟩
  · rw [hstep, finishTx, if_neg hmore]
    rfl
  · rw [hstep, finishTx, if_pos hdone, if_pos hdir, State.emit_of_mask _ _ _ evTransferComplete_ne_zero]
    rfl
  · rw [hstep, finishTx, if_pos hdone, if_neg hdir, if_neg (by simp [hmask])]
    rfl
  · rw [hstep, finishTx, if_pos hdone, if_neg hdir, if_pos hmask]
    rfl

end Sys2Proof.Machine

namespace Sys2Proof.Machine

/-! ## DMA stimuli (44_dma_completion.md) -/

/-- When a stimulus of a given member of `Inst` is taken. -/
theorem stimulus_next_iff_of_spi {i : Idx} {s : State} {x : Spi} {en : Spi → Bool} {body : Spi → State}
    (hx : s.spi? i = some x) : (∃ t, stimulus i s en body = .next t) ↔ s.ctx = .foreground ∧ en x = true := by
  rw [stimulus_next_iff]
  constructor
  · rintro ⟨y, ⟨hctx, hy⟩, hen⟩
    obtain rfl := Option.some.inj (hx.symm.trans hy)
    exact ⟨hctx, hen⟩
  · rintro ⟨hctx, hen⟩
    exact ⟨x, ⟨hctx, hx⟩, hen⟩

theorem Channel.mayError_iff {e : Bool} {c : Channel} : c.mayError e = true ↔ e = true ∧ c.en = true :=
  Bool.and_eq_true_iff

theorem Channel.finished_iff {c : Channel} {g : DmaCfg} (hg : c.cfg = some g) :
    c.finished = true ↔ c.stale = true ∨ ∀ k < g.beats, k ∈ c.done := by
  simp [Channel.finished, hg]

theorem Channel.mayFinish_iff {e : Bool} {c : Channel} {g : DmaCfg} (hg : c.cfg = some g) : c.mayFinish e = true ↔
    e = true ∧ c.en = true ∧ (c.stale = true ∨ ∀ k < g.beats, k ∈ c.done) := by
  rw [Channel.mayFinish, Bool.and_eq_true, Bool.and_eq_true, Channel.finished_iff hg, and_assoc]

theorem Channel.mayFinish_iff_of_not_stale {e : Bool} {c : Channel} {g : DmaCfg} (hg : c.cfg = some g)
    (hs : c.stale = false) : c.mayFinish e = true ↔ e = true ∧ c.en = true ∧ ∀ k < g.beats, k ∈ c.done := by
  rw [Channel.mayFinish_iff hg, hs]
  simp

/-- Settles O44: the enabling conditions are `mayError` and `mayFinish`. -/
theorem dmaStimulusTakenExactlyWhenEnabled : Obligations.DmaStimulusTakenExactlyWhenEnabled := by
  intro s i kind
  refine ⟨?_, ?_, fun x g hx hg hstale => ?_, fun x g hx hg hstale => ?_⟩
  · have h : (∃ t, exec (.dmaTxError i kind) s = .next t) ↔ ∃ x, Ready s i x ∧ x.dmaTx.mayError s.dmaEngineEn = true :=
      stimulus_next_iff
    simp only [h, Channel.mayError_iff]
  · have h : (∃ t, exec (.dmaRxError i kind) s = .next t) ↔ ∃ x, Ready s i x ∧ x.dmaRx.mayError s.dmaEngineEn = true :=
      stimulus_next_iff
    simp only [h, Channel.mayError_iff]
  · rw [← Channel.mayFinish_iff_of_not_stale hg hstale]
    exact stimulus_next_iff_of_spi hx
  · rw [← Channel.mayFinish_iff_of_not_stale hg hstale]
    exact stimulus_next_iff_of_spi hx

/-- Settles O45: DONE is enabled, and the direction decides on the event. -/
theorem transmitDoneClosesTransfer : Obligations.TransmitDoneClosesTransfer := by
  intro s i x g hready hengine hen hg hdone
  have hmay : x.dmaTx.mayFinish s.dmaEngineEn = true := (Channel.mayFinish_iff hg).2 ⟨hengine, hen, hdone.symm⟩
  have hexec : exec (.dmaTxDone i) s = .next (if x.hw.tmod = .txOnly then
      (s.put i x.txDone).emit i x.run.cb evTransferComplete else s.put i x.txDone) :=
    stimulus_ready _ hready.1 hready.2 hmay
  rw [hexec]
  by_cases hdir : x.hw.tmod = .txOnly
  · rw [if_pos hdir, State.emit_eq]
    simp only [hdir, true_and, evTransferComplete_ne_zero, ne_eq, not_false_eq_true]
    rfl
  · rw [if_neg hdir, if_neg fun h => hdir h.1, List.append_nil]
    rfl

theorem Spi.rxDone_deassertSs (x : Spi) (k : Fin 4) : x.rxDone.deassertSs k = { x.rxDone with
    hw := { x.hw with ssActive := if x.desc.tag = .slave then x.hw.ssActive else x.hw.ssActive.set k false } } := by
  by_cases htag : x.desc.tag = .slave
  · have hm : ¬ isMasterTag x.rxDone.desc.tag = true := fun h => isMasterTag_iff.1 h htag
    rw [Spi.deassertSs, if_neg hm, if_pos htag]
    rfl
  · have hm : isMasterTag x.rxDone.desc.tag = true := isMasterTag_iff.2 htag
    rw [Spi.deassertSs, if_pos hm, if_neg htag]
    rfl

/-- Settles O46: DONE is enabled, and the tag decides on the slave-select line. -/
theorem receiveDoneClosesTransfer : Obligations.ReceiveDoneClosesTransfer := by
  intro s i x g hready hengine hen hg hdone
  have hmay : x.dmaRx.mayFinish s.dmaEngineEn = true := (Channel.mayFinish_iff hg).2 ⟨hengine, hen, hdone.symm⟩
  have hexec : exec (.dmaRxDone i) s = .next ((s.put i (x.rxDone.deassertSs s.slaveNo)).emit i x.run.cb evTransferComplete) :=
    stimulus_ready _ hready.1 hready.2 hmay
  rw [hexec, Spi.rxDone_deassertSs, State.emit_eq]
  simp only [evTransferComplete_ne_zero, ne_eq, not_false_eq_true, true_and]
  rfl

/-- Settles O47: the enabling condition is `mayError`, and `delivered` is the only write. -/
theorem dmaErrorsAreSwallowed : Obligations.DmaErrorsAreSwallowed :=
  fun _ _ _ _ hready hengine =>
    ⟨fun hen => stimulus_ready _ hready.1 hready.2 (Channel.mayError_iff.2 ⟨hengine, hen⟩),
     fun hen => stimulus_ready _ hready.1 hready.2 (Channel.mayError_iff.2 ⟨hengine, hen⟩)⟩

/-! ## Beats (20_memory.md R69, R81) -/

theorem step_env {s : State} {e : EnvMove} {rest : List Input} (h : s.ctx = .foreground) (hin : s.inputs = .env e :: rest) :
    step s = applyEnv e { s with inputs := rest } := by
  simp only [step, h, foregroundStep, hin]

theorem beatAddr_eq (base : Word) (policy : Inc) (k size : Nat) :
    beatAddr base policy k size = base + if policy = .inc then BitVec.ofNat 32 (k * (size / 8)) else 0 := by
  cases policy
  · exact (BitVec.add_zero base).symm
  · rfl

theorem Channel.dropPart_of_not_held {c : Channel} {k : Nat} (h : ∀ p ∈ c.flight, p.beat ≠ k) : c.dropPart k = c := by
  have hf : (c.flight.filter fun p => p.beat != k) = c.flight := List.filter_eq_self.2 fun p hp => by simpa using h p hp
  rw [Channel.dropPart, hf]

theorem Channel.part_of_not_held {c : Channel} {k : Nat} (data : Word) (h : ∀ p ∈ c.flight, p.beat ≠ k) :
    c.part k data = { beat := k, data := data, bytes := [] } := by
  obtain ⟨hmem, hbeat, -⟩ | ⟨hnew, -, -⟩ := c.part_cases k data
  · exact absurd hbeat (h _ hmem)
  · exact hnew

/-- A beat has begun exactly when what has moved of it is held. -/
theorem Channel.any_beat_eq (c : Channel) (k : Nat) (data : Word) :
    (c.flight.any fun p => p.beat == k) = decide (c.part k data ∈ c.flight) := by
  obtain ⟨hmem, -, hany⟩ | ⟨hnew, hany, hnone⟩ := c.part_cases k data
  · rw [hany, decide_eq_true hmem]
  · rw [hany, decide_eq_false fun hmem => hnone _ hmem (by rw [hnew])]

/-- Beginning a receive beat, by whether it is held. -/
theorem Spi.beginRx_eq_of_part (x : Spi) (k : Nat) (data : Word) :
    x.beginRx k = { x with drReads := x.drReads + if x.dmaRx.part k data ∈ x.dmaRx.flight then 0 else 1 } := by
  rw [Spi.beginRx_eq, Channel.any_beat_eq _ _ data]
  simp only [decide_eq_true_eq]

section
variable {s : State} {i : Idx} {x : Spi} {rest : List Input} {g : DmaCfg} {base : Word} {k b : Nat} (hready : Ready s i x)
include hready

theorem step_txBeat (hin : s.inputs = .env (.dmaBeat i .tx k) :: rest) (hg : x.dmaTx.cfg = some g) (hb : g.src = .mem base)
    (hm : x.dmaTx.mayBeat s.dmaEngineEn g k = true) : step s = .next (txBeat i x g base k { s with inputs := rest }) := by
  have hspi : ({ s with inputs := rest } : State).spi? i = some x := hready.2
  rw [step_env hready.1 hin]
  simp only [applyEnv, hspi, beat]
  exact beatMove_ready (s := { s with inputs := rest }) _ hg hb hm rfl

theorem step_rxBeat (hin : s.inputs = .env (.dmaBeat i .rx k) :: rest) (hg : x.dmaRx.cfg = some g) (hb : g.dst = .mem base)
    (hm : x.dmaRx.mayBeat s.dmaEngineEn g k = true) : step s = .next (rxBeat i x g base k { s with inputs := rest }) := by
  have hspi : ({ s with inputs := rest } : State).spi? i = some x := hready.2
  rw [step_env hready.1 hin]
  simp only [applyEnv, hspi, beat]
  exact beatMove_ready (s := { s with inputs := rest }) _ hg hb hm rfl

theorem step_txByte (hin : s.inputs = .env (.dmaByte i .tx k b) :: rest) (hg : x.dmaTx.cfg = some g)
    (hb : g.src = .mem base) (hm : x.dmaTx.mayBeat s.dmaEngineEn g k = true)
    (ha : (x.dmaTx.part k 0).mayMove (g.size / 8) b = true) :
    step s = .next (txByte i x g base k b { s with inputs := rest }) := by
  have hspi : ({ s with inputs := rest } : State).spi? i = some x := hready.2
  rw [step_env hready.1 hin]
  simp only [applyEnv, hspi, beatByte]
  exact beatMove_ready (s := { s with inputs := rest }) _ hg hb hm ha

theorem step_rxByte (hin : s.inputs = .env (.dmaByte i .rx k b) :: rest) (hg : x.dmaRx.cfg = some g)
    (hb : g.dst = .mem base) (hm : x.dmaRx.mayBeat s.dmaEngineEn g k = true)
    (ha : (x.dmaRx.part k x.ser.drIn).mayMove (g.size / 8) b = true) :
    step s = .next (rxByte i x g base k b { s with inputs := rest }) := by
  have hspi : ({ s with inputs := rest } : State).spi? i = some x := hready.2
  rw [step_env hready.1 hin]
  simp only [applyEnv, hspi, beatByte]
  exact beatMove_ready (s := { s with inputs := rest }) _ hg hb hm ha

end

theorem Part.mayMove_iff {p : Part} {n b : Nat} : p.mayMove n b = true ↔ b < n ∧ p.bytes.lookup b = none := by
  rw [Part.mayMove, Bool.and_eq_true, decide_eq_true_eq, Option.isNone_iff_eq_none]

/-- Settles O43: the beat is offered, so the move is made; a beat that is not held is one of which nothing has moved. -/
theorem dmaBeatMovesOneUnit : Obligations.DmaBeatMovesOneUnit := by
  intro s i x rest g base a k b hready hengine hk
  refine ⟨fun hg hb hen hstale hk' ha => ?_, fun hg hb hen hstale hk' ha => ?_⟩
  · have hmay : x.dmaTx.mayBeat s.dmaEngineEn g k = true := Channel.mayBeat_iff.2 ⟨hengine, hen, hstale, hk, hk'⟩
    rw [← beatAddr_eq] at ha
    subst ha
    refine ⟨fun hin hnone => ?_, ?_⟩
    · rw [step_txBeat hready hin hg hb hmay, txBeat, Channel.beatDone, Channel.dropPart_of_not_held hnone,
        Channel.part_of_not_held 0 hnone, memFetch_nil]
      rfl
    · rintro p rfl
      refine ⟨fun hin => step_txBeat hready hin hg hb hmay, fun hin hlt hnone => ?_⟩
      exact step_txByte hready hin hg hb hmay (Part.mayMove_iff.2 ⟨hlt, hnone⟩)
  · have hmay : x.dmaRx.mayBeat s.dmaEngineEn g k = true := Channel.mayBeat_iff.2 ⟨hengine, hen, hstale, hk, hk'⟩
    rw [← beatAddr_eq] at ha
    subst ha
    refine ⟨fun hin hnone => ?_, ?_⟩
    · have hnew := Channel.part_of_not_held x.ser.drIn hnone
      have hheld : x.dmaRx.part k x.ser.drIn ∉ x.dmaRx.flight := fun hmem => hnone _ hmem (by rw [hnew])
      rw [step_rxBeat hready hin hg hb hmay, rxBeat, Spi.beginRx_eq_of_part x k x.ser.drIn, if_neg hheld, hnew,
        Channel.beatDone, Channel.dropPart_of_not_held hnone]
      simp only [memStore_nil]
      rfl
    · rintro p rfl n rfl
      refine ⟨fun hin => ?_, fun hin hlt hnone => ?_⟩
      · rw [step_rxBeat hready hin hg hb hmay, rxBeat, Spi.beginRx_eq_of_part x k x.ser.drIn]
        rfl
      · rw [step_rxByte hready hin hg hb hmay (Part.mayMove_iff.2 ⟨hlt, hnone⟩), rxByte,
          Spi.beginRx_eq_of_part x k x.ser.drIn]
        rfl

end Sys2Proof.Machine
